-- ==== Sys2Proof/Word.lean ====
section
/-! DEFINITION. The three word sizes of the core (rule R9): a byte is a colour channel, a palette index, an
element of IDX and of OUT; a half word is a 16-bit field of a register; a word is a register. -/

namespace Sys2Proof

abbrev Byte := BitVec 8
abbrev Half := BitVec 16
abbrev Word := BitVec 32

end Sys2Proof
end

