-- ==== Sys2Proof/Syntax.lean ====
section
/-! DEFINITION. The nine commands of the core: one constructor per row of spec/opcode_table.json (rule R91). -/

namespace Sys2Proof

/-- A command as a host writes it to `CMD`. Only LZW carries an operand, `depth`, the four bits of field ARG
(rule R92); every other operand is read from a register or a memory when the command is issued. -/
inductive Instr where
  | nop
  | begin
  | frame
  | cancel
  | clear
  | sample
  | mcut
  | index
  | lzw (depth : BitVec 4)
  deriving DecidableEq, Repr

end Sys2Proof
end

