-- ==== Sys2Proof/WellFormed.lean ====
section
/-! DEFINITION. When a command is one the encoding of rules R90 to R93 can carry. -/

namespace Sys2Proof

/-- Rule R92: the legal values of LZW's `depth` are 1 to 8; no other command has an operand. -/
def Instr.wf : Instr → Bool
  | .nop => true
  | .begin => true
  | .frame => true
  | .cancel => true
  | .clear => true
  | .sample => true
  | .mcut => true
  | .index => true
  | .lzw depth => decide (1 ≤ depth.toNat) && decide (depth.toNat ≤ 8)

end Sys2Proof
end

