-- ==== Sys2Proof/Decode.lean ====
section
/-! DEFINITION. The command word (rules R90 to R93, R108): a decoder that is total on 32-bit words and rejects a
malformed word by name, and the encoder written from the same table. -/

namespace Sys2Proof

/-- Field OP, bits 7:0 of a command word (rule R90). -/
def fieldOp (w : Word) : BitVec 8 := w.extractLsb' 0 8

/-- Field ARG, bits 11:8 of a command word (rule R90). -/
def fieldArg (w : Word) : BitVec 4 := w.extractLsb' 8 4

/-- Field RSV, bits 31:12 of a command word (rule R90). -/
def fieldRsv (w : Word) : BitVec 20 := w.extractLsb' 12 20

/-- Why a command word is malformed (rule R93). -/
inductive DecodeError where
  /-- bits 31:12 are not all zero -/
  | reservedBits
  /-- OP is not in the table of rule R91 -/
  | unknownOpcode (op : BitVec 8)
  /-- ARG is not zero and OP is not LZW -/
  | strayArgument
  /-- OP is LZW and ARG is 0 or greater than 8 -/
  | lzwDepth (depth : BitVec 4)
  deriving DecidableEq, Repr

/-- A command without an operand: its ARG must be 0 (rule R93). -/
def plainCommand (arg : BitVec 4) (i : Instr) : Except DecodeError Instr :=
  if arg = 0 then .ok i else .error .strayArgument

/-- LZW: its ARG is the depth, 1 to 8 (rules R92, R93). -/
def lzwCommand (arg : BitVec 4) : Except DecodeError Instr :=
  if (Instr.lzw arg).wf then .ok (.lzw arg) else .error (.lzwDepth arg)

/-- Reads one command word: the opcode map of rule R91 and the malformed words of rule R93. -/
def decode (w : Word) : Except DecodeError Instr :=
  if fieldRsv w = 0 then
    match (fieldOp w).toNat with
    | 0x00 => plainCommand (fieldArg w) .nop
    | 0x01 => plainCommand (fieldArg w) .begin
    | 0x02 => plainCommand (fieldArg w) .frame
    | 0x03 => plainCommand (fieldArg w) .cancel
    | 0x04 => plainCommand (fieldArg w) .clear
    | 0x10 => plainCommand (fieldArg w) .sample
    | 0x11 => plainCommand (fieldArg w) .mcut
    | 0x12 => plainCommand (fieldArg w) .index
    | 0x13 => lzwCommand (fieldArg w)
    | _ => .error (.unknownOpcode (fieldOp w))
  else .error .reservedBits

/-- The host's numbering of the opcode table: a row of `nbits` bits, bit 0 the least significant. -/
def decodeTableWord (nbits w : Nat) : Option Instr :=
  match decode (BitVec.ofNat 32 (w % 2 ^ nbits)) with
  | .ok i => some i
  | .error _ => none

/-- The opcode of each mnemonic (rule R91). -/
def opcode : Instr → BitVec 8
  | .nop => 0x00
  | .begin => 0x01
  | .frame => 0x02
  | .cancel => 0x03
  | .clear => 0x04
  | .sample => 0x10
  | .mcut => 0x11
  | .index => 0x12
  | .lzw _ => 0x13

/-- The operand field: `depth` for LZW, 0 for every other command (rule R90). -/
def argument : Instr → BitVec 4
  | .lzw depth => depth
  | .nop | .begin | .frame | .cancel | .clear | .sample | .mcut | .index => 0

/-- The command word of each mnemonic (rule R108): RSV, ARG and OP, from the top bit down. -/
def encode (i : Instr) : Word := (0 : BitVec 20) ++ argument i ++ opcode i

end Sys2Proof
end

