-- ==== Sys2Proof/Machine/Types.lean ====
section
/-! DEFINITION. The plain data the state is made of: names, colours, buckets, memories, working registers, and the
host's accesses. -/

namespace Sys2Proof.Machine

/-- The byte memories a host can reach (rule R60). -/
inductive Space where
  | fb
  | smp
  | pal
  | idx
  | out
  deriving DecidableEq, Repr

/-- The phase field PH of STATUS (rule R24): IDLE, OPEN, DONE, ERROR. -/
inductive Phase where
  | idle
  | opened
  | done
  | error
  deriving DecidableEq, Repr

/-- The values ERR_CODE can hold (rule R231); codes 7 to 15 are never written. -/
inductive ErrCode where
  | noError
  | emptyInput
  | dimensionMismatch
  | encodingFailure
  | cancelled
  | badDimension
  | outOverflow
  deriving DecidableEq, Repr

/-- The commands that are issued and complete later (rule R205), with the operand the command word carried: what
CUR_OP names (rule R33) and, for LZW, the depth read at issue (DEDUCED, log 15). -/
inductive IssuedOp where
  | begin
  | frame
  | sample
  | mcut
  | index
  | lzw (depth : BitVec 4)
  deriving DecidableEq, Repr, Inhabited

/-- A colour: red, green, blue (rules R38, R41). -/
structure Rgb where
  r : Byte
  g : Byte
  b : Byte
  deriving DecidableEq, Repr, Inhabited

/-- A colour channel, in the scan order of rule R125. -/
inductive Channel where
  | red
  | green
  | blue
  deriving DecidableEq, Repr

/-- A bucket `(start, len)`: the samples `SMP[start .. start+len-1]` (rule R123). -/
structure Bucket where
  start : Nat
  len : Nat
  deriving DecidableEq, Repr, Inhabited

/-- One entry of DICT (rule R44): the string of code `pre` extended by `sym` has code `code`. -/
structure DictEntry where
  pre : Nat
  sym : Byte
  code : Nat
  deriving DecidableEq, Repr

/-- The LZW encoder's registers (rule R34) and DICT (rule R44), newest entry first. `pre` is the register the rules
call prefix and `endCode` the one they call end; the rules' arithmetic on them is exact (rule R13; DEDUCED, log 11). -/
structure LzwRegs where
  m : Nat
  clear : Nat
  endCode : Nat
  w : Nat
  next : Nat
  pre : Nat
  dict : List DictEntry
  deriving DecidableEq, Repr, Inhabited

/-- The packer's registers (rule R35): the pending bits `acc`, their number `nb`, and the bytes of the sub-block
being filled. `bl`, the fill count, is the number of bytes in `blk` (DEDUCED, log 11). -/
structure PackRegs where
  acc : Nat
  nb : Nat
  blk : List Byte
  deriving DecidableEq, Repr, Inhabited

/-- A byte memory: the bytes that have been written, at strictly rising offsets, and the number of the unspecified
contents that every other byte has (rules R47, R74; DESIGN CHOICE, logs 6 and 23). -/
structure Memory where
  epoch : Nat
  cells : List Host.Cell
  deriving DecidableEq, Repr

/-- The sixteen registers of rule R21. -/
inductive Csr where
  | cmd
  | status
  | errCode
  | errFrame
  | width
  | height
  | delay
  | frameCount
  | frameW
  | frameH
  | framesDone
  | outLen
  | smpCount
  | bktCount
  | idxLen
  | stride
  deriving DecidableEq, Repr

/-- What the host can do to the core: register accesses of `size` bytes at a byte offset of the CSR space (rules
R21, R62), byte accesses to a memory at consecutive offsets (rules R61, R67), and hardware reset (rule R260). -/
inductive HostAccess where
  | writeCsr (offset size : Nat) (value : Word)
  | readCsr (offset size : Nat)
  | store (space : Space) (offset : Nat) (bytes : List Byte)
  | load (space : Space) (offset count : Nat)
  | reset
  deriving DecidableEq, Repr

/-- A host access waiting to reach the core. `early` says that the host makes it without waiting for BUSY to
fall, so that it reaches the core before the command then running completes (rules R71, R205; DESIGN CHOICE, log 3). -/
structure HostEvent where
  early : Bool
  access : HostAccess
  deriving DecidableEq, Repr

/-- What the last read returned to the host. -/
inductive ReadData where
  | nothing
  | word (value : Word)
  | bytes (values : List Byte)
  deriving DecidableEq, Repr

end Sys2Proof.Machine
end

