-- ==== Sys2Proof/Config.lean ====
section
/-! DEFINITION. What an implementation fixes (rule R8) and the values the spec leaves unspecified. A free value is a
constant without a body: no proof can learn what it is. -/

namespace Sys2Proof

/-- The implementation parameters of rule R8 that rules read. State carries them and no step changes them
(DESIGN CHOICE, log 1). -/
structure Params where
  sampleBudget : Nat
  maxPixels : Nat
  outCapacity : Nat
  deriving DecidableEq, Repr

/-- The constraints of rule R8. -/
abbrev Params.wf (p : Params) : Prop :=
  1 ≤ p.sampleBudget ∧ 4 ≤ p.maxPixels ∧ p.maxPixels ≤ 65534 * 65534 ∧
    33 ≤ p.outCapacity ∧ p.outCapacity < 2 ^ 32

/-- The recommended values of rule R8, which the test vectors use. -/
def Params.recommended : Params :=
  { sampleBudget := 8192, maxPixels := 1048576, outCapacity := 16777216 }

namespace Config

open Sys2Proof.Machine

/-- Where the platform maps each space (rules R8, R63). No rule reads them (DESIGN CHOICE, log 2). -/
opaque csrBase : Nat
opaque fbBase : Nat
opaque smpBase : Nat
opaque palBase : Nat
opaque idxBase : Nat
opaque outBase : Nat

/-- The byte a memory holds at an offset no agent has written since its contents became unspecified for the
`epoch`-th time (rules R47, R74, R236; DESIGN CHOICE, log 6). -/
opaque freeByte (space : Space) (epoch offset : Nat) : Byte

/-- Byte `k` returned by a host read whose value is unspecified (rules R61, R71); `draw` numbers the read (DESIGN CHOICE,
log 10). -/
opaque freeReadByte (draw k : Nat) : Byte

/-- The word returned by a register read whose value is unspecified (rule R71; DESIGN CHOICE, log 10). -/
opaque freeReadWord (draw : Nat) : Word

/-- SMP_COUNT, BKT_COUNT, IDX_LEN and STRIDE after error entry (rule R236), before the bounds of rule R46 are
applied (DESIGN CHOICE, log 7). -/
opaque freeSmpCount (draw : Nat) : Nat
opaque freeBktCount (draw : Nat) : Nat
opaque freeIdxLen (draw : Nat) : Nat
opaque freeStride (draw : Nat) : Nat

/-- Bucket `b` after error entry (rule R236), before the bounds of rule R39 are applied (DESIGN CHOICE, log 7). -/
opaque freeBucket (draw b : Nat) : Bucket

/-- The working registers between commands (rules R33 to R36, R44; DESIGN CHOICE, log 8). -/
opaque freeCurOp (draw : Nat) : IssuedOp
opaque freeLzw (draw : Nat) : LzwRegs
opaque freePack (draw : Nat) : PackRegs

end Config

end Sys2Proof
end

