-- ==== Sys2Proof/Machine/State.lean ====
section
/-! DEFINITION. The state: every register, register file, memory and working register of spec file 10_state.md, the
host accesses that are waiting, and the model's own read port and count of free values. -/

namespace Sys2Proof.Machine

/-- No fault stops this machine: every error the spec names is a next state (rules R230, R236), every issued command
completes (rule R215), and a core with nothing to do waits (rule R261; DEDUCED, log 25). -/
inductive Fault where
  deriving DecidableEq, Repr

/-- Why the model gives no next state. -/
inductive Refusal where
  /-- raised by `exec` for a command that has no meaning yet; no arm does. Safe. -/
  | notModelled (mnemonic : String)
  /-- raised by a host register access that is not 32 bits wide or not 4-byte aligned, which the spec does not
  define and tells a model to refuse (rule R62, 93_implementation_defined.md U11; DESIGN CHOICE, log 18). Safe. -/
  | undefinedCsrAccess (offset size : Nat)
  deriving DecidableEq, Repr

structure State where
  /-- rule R8: fixed when the hardware is built; no step changes it -/
  params : Params
  /-- STATUS.BUSY -/
  busy : Bool
  /-- STATUS.CANCEL_REQ -/
  cancelReq : Bool
  /-- STATUS.CMD_REJ -/
  cmdRej : Bool
  /-- STATUS.PH; DONE and ERR are functions of it (rule R23) -/
  phase : Phase
  /-- ERR_CODE.CODE -/
  errCode : ErrCode
  /-- ERR_FRAME.INDEX -/
  errFrame : Half
  /-- WIDTH.W -/
  width : Half
  /-- HEIGHT.H -/
  height : Half
  /-- DELAY.D -/
  delay : Half
  /-- FRAME_COUNT.N -/
  frameCount : Half
  /-- FRAME_W.W -/
  frameW : Half
  /-- FRAME_H.H -/
  frameH : Half
  /-- FRAMES_DONE.K -/
  framesDone : Half
  /-- OUT_LEN.LEN -/
  outLen : Word
  /-- SMP_COUNT.COUNT -/
  smpCount : Word
  /-- BKT_COUNT.COUNT -/
  bktCount : BitVec 9
  /-- IDX_LEN.LEN -/
  idxLen : Word
  /-- STRIDE.S -/
  stride : Word
  /-- CUR_OP (rule R33); meaningful only while BUSY is 1 -/
  curOp : IssuedOp
  /-- the LZW encoder's working registers and DICT (rules R34, R44) -/
  lzw : LzwRegs
  /-- the packer's working registers (rule R35) -/
  pack : PackRegs
  /-- BKT, entries 0 to BKT_COUNT-1; the others are unspecified and no rule reads them (rule R39; DEDUCED,
  log 12) -/
  bkt : List Bucket
  /-- FB, the frame buffer (rule R40) -/
  fb : Memory
  /-- SMP, the sample memory, three bytes per sample (rule R41) -/
  smp : Memory
  /-- PAL, the palette, three bytes per entry (rule R38) -/
  pal : Memory
  /-- IDX, the index buffer (rule R42) -/
  idx : Memory
  /-- OUT, the output memory (rule R43) -/
  out : Memory
  /-- the host's accesses that have not reached the core yet, in the order the host made them (rule R69) -/
  queue : List HostEvent
  /-- the model's own: what the last host read returned (DESIGN CHOICE, log 10) -/
  rdata : ReadData
  /-- the model's own: how many free values have been drawn (DESIGN CHOICE, log 10) -/
  draws : Nat
  deriving DecidableEq, Repr

/-- A memory nobody has written. -/
def Memory.unwritten : Memory := { epoch := 0, cells := [] }

/-- The state right after reset (rules R47, R260), with the recommended parameters (log 1) and nothing
waiting (log 4). The working registers' values are the model's (DESIGN CHOICE, log 5, unsafe). -/
def State.reset : State where
  params := Params.recommended
  busy := false
  cancelReq := false
  cmdRej := false
  phase := .idle
  errCode := .noError
  errFrame := 0
  width := 0
  height := 0
  delay := 0
  frameCount := 0
  frameW := 0
  frameH := 0
  framesDone := 0
  outLen := 0
  smpCount := 0
  bktCount := 0
  idxLen := 0
  stride := 0
  curOp := .begin
  lzw := { m := 0, clear := 0, endCode := 0, w := 0, next := 0, pre := 0, dict := [] }
  pack := { acc := 0, nb := 0, blk := [] }
  bkt := []
  fb := Memory.unwritten
  smp := Memory.unwritten
  pal := Memory.unwritten
  idx := Memory.unwritten
  out := Memory.unwritten
  queue := []
  rdata := .nothing
  draws := 0

end Sys2Proof.Machine
end

