-- ==== Sys2Proof/Machine/Ops.lean ====
section
/-! DEFINITION. The shared operations: memory access, error propagation, appending to OUT, rejection, error entry and
the way out of phase ERROR, forgetting what the spec leaves unspecified, issue. -/

namespace Sys2Proof.Machine

/-! ### Memories -/

/-- The byte listed at offset `a`, if any. -/
def lookupCell : List Host.Cell → Nat → Option Byte
  | [], _ => none
  | (a', b) :: t, a => if a' = a then some b else lookupCell t a

/-- Lists `b` at offset `a`, keeping the offsets strictly rising. -/
def insertCell (a : Nat) (b : Byte) : List Host.Cell → List Host.Cell
  | [] => [(a, b)]
  | (a', b') :: t =>
    if a < a' then (a, b) :: (a', b') :: t
    else if a = a' then (a, b) :: t
    else (a', b') :: insertCell a b t

/-- Every offset of the list is above `lo`, and they rise strictly. -/
def risingAbove (lo : Nat) : List Host.Cell → Bool
  | [] => true
  | (a, _) :: t => decide (lo < a) && risingAbove a t

/-- The canonical form of a memory: offsets rise strictly. An unlisted byte has no value that could be named, so no
entry repeats it. -/
def Memory.wf (m : Memory) : Bool :=
  match m.cells with
  | [] => true
  | (a, _) :: t => risingAbove a t

/-- A byte of a memory: the last value written there, else a free value (rules R47, R74). -/
def Memory.read (space : Space) (m : Memory) (a : Nat) : Byte :=
  (lookupCell m.cells a).getD (Config.freeByte space m.epoch a)

def Memory.write (m : Memory) (a : Nat) (b : Byte) : Memory :=
  { m with cells := insertCell a b m.cells }

/-- Bytes as cells at consecutive offsets from `a`. -/
def cellsFrom (a : Nat) : List Byte → List Host.Cell
  | [] => []
  | b :: bs => (a, b) :: cellsFrom (a + 1) bs

/-- Bytes at consecutive offsets from `a`: the cells below, the bytes, the cells above; no bytes, no change. -/
def Memory.writeBytes (m : Memory) (a : Nat) (bs : List Byte) : Memory :=
  if bs = [] then m
  else
    { m with
      cells := m.cells.filter (fun c => decide (c.1 < a)) ++ cellsFrom a bs ++
        m.cells.filter (fun c => decide (a + bs.length ≤ c.1)) }

/-- The contents become unspecified. -/
def Memory.forget (m : Memory) : Memory :=
  { epoch := m.epoch + 1, cells := [] }

/-- The memory of a space. -/
def State.mem (s : State) : Space → Memory
  | .fb => s.fb
  | .smp => s.smp
  | .pal => s.pal
  | .idx => s.idx
  | .out => s.out

def State.setMem (s : State) (space : Space) (m : Memory) : State :=
  match space with
  | .fb => { s with fb := m }
  | .smp => { s with smp := m }
  | .pal => { s with pal := m }
  | .idx => { s with idx := m }
  | .out => { s with out := m }

/-- `S[a]` (rule R11). -/
def State.byte (s : State) (space : Space) (a : Nat) : Byte :=
  (s.mem space).read space a

/-- `S[a] <- b` (rule R11). -/
def State.setByte (s : State) (space : Space) (a : Nat) (b : Byte) : State :=
  s.setMem space ((s.mem space).write a b)

/-- `MemWrite(S, a, n, v)`: bytes at consecutive offsets, in increasing order (rules R11, R67). -/
def State.setBytes (s : State) (space : Space) (a : Nat) (bs : List Byte) : State :=
  s.setMem space ((s.mem space).writeBytes a bs)

/-- The size of a space in bytes (rule R60). -/
def spaceSize (p : Params) : Space → Nat
  | .fb => 4 * p.maxPixels
  | .smp => 3 * p.sampleBudget
  | .pal => 768
  | .idx => p.maxPixels
  | .out => p.outCapacity

/-! ### Errors raised inside a command -/

/-- Goes on with `f` unless an error was raised (rule R12: nothing after a raise is executed). -/
def andThen (r : Except ErrCode State) (f : State → Except ErrCode State) : Except ErrCode State :=
  match r with
  | .ok s => f s
  | .error e => .error e

/-! ### Appending to OUT -/

/-- `OutByte(b)` (rule R177). -/
def outByte (b : Byte) (s : State) : Except ErrCode State :=
  if s.outLen.toNat = s.params.outCapacity then .error .outOverflow
  else .ok { s.setBytes .out s.outLen.toNat [b] with outLen := s.outLen + 1 }

/-- `Out(bytes)`: OutByte of each byte in order (rule R185). It raises OutOverflow when they do not all fit; of the
bytes before the one that does not, error entry leaves nothing a host could see (rule R240; DEDUCED, log 14). -/
def outBytes (bs : List Byte) (s : State) : Except ErrCode State :=
  if s.outLen.toNat + bs.length ≤ s.params.outCapacity then
    .ok { s.setBytes .out s.outLen.toNat bs with outLen := s.outLen + BitVec.ofNat 32 bs.length }
  else .error .outOverflow

/-- `OUT_LEN <- 0`: what OUT held is no longer output, and its bytes are unspecified (rules R29, R43, U1;
DESIGN CHOICE, log 9). -/
def dropOutput (s : State) : State :=
  { s with outLen := 0, out := s.out.forget }

/-! ### Rejection, error entry, and the way out of phase ERROR -/

/-- A rejected CMD write does exactly one thing (rule R212). -/
def reject (s : State) : State :=
  { s with cmdRej := true }

/-- Between commands the working registers are unspecified (rules R33 to R36, R44). -/
def forgetWorking (s : State) : State :=
  { s with
    curOp := Config.freeCurOp s.draws
    lzw := Config.freeLzw s.draws
    pack := Config.freePack s.draws
    draws := s.draws + 1 }

/-- BKT_COUNT after error entry: unspecified (rule R236), within the bound of rule R46. -/
def freeBktCount (s : State) : Nat := Config.freeBktCount s.draws % 257

/-- A bucket after error entry: unspecified (rule R236), its two numbers 0 to SAMPLE_BUDGET (rule R39). -/
def freeBucket (s : State) (b : Nat) : Bucket :=
  { start := (Config.freeBucket s.draws b).start % (s.params.sampleBudget + 1)
    len := (Config.freeBucket s.draws b).len % (s.params.sampleBudget + 1) }

/-- The buffers and counts that error entry leaves unspecified (rule R236), within the bounds rule R46 gives them: of
BKT, as many free entries as the free BKT_COUNT makes live. -/
def forgetBuffers (s : State) : State :=
  { s with
    smp := s.smp.forget
    pal := s.pal.forget
    idx := s.idx.forget
    bkt := (List.range (freeBktCount s)).map (freeBucket s)
    smpCount := BitVec.ofNat 32 (Config.freeSmpCount s.draws % (s.params.sampleBudget + 1))
    bktCount := BitVec.ofNat 9 (freeBktCount s)
    idxLen := BitVec.ofNat 32 (Config.freeIdxLen s.draws % (s.params.maxPixels + 1))
    stride := BitVec.ofNat 32 (Config.freeStride s.draws)
    draws := s.draws + 1 }

/-- `ErrorEntry(k)` (rule R236), from the state in which the error is raised. -/
def errorEntry (k : ErrCode) (s : State) : State :=
  { forgetWorking (forgetBuffers (dropOutput s)) with
    errCode := k
    errFrame := s.framesDone
    phase := .error
    busy := false
    cancelReq := false }

/-- The way back to phase IDLE (rules R211, R241). -/
def backToIdle (s : State) : State :=
  { dropOutput s with
    phase := .idle
    errCode := .noError
    errFrame := 0
    framesDone := 0
    cancelReq := false
    cmdRej := false }

/-! ### Issue and completion -/

/-- Issue (rule R205): BUSY rises and CUR_OP names the command. -/
def issue (op : IssuedOp) (s : State) : State :=
  { s with busy := true, curOp := op }

/-- The next host access reaches the core before the running command completes. -/
def State.overtaken (s : State) : Bool :=
  match s.queue with
  | [] => false
  | e :: _ => e.early

/-- Completion (rule R205): the writes take effect and BUSY falls, or error entry happens instead. `s` is the state
in which the command's errors are raised. -/
def conclude (s : State) : Except ErrCode State → State
  | .ok t => { forgetWorking t with busy := false }
  | .error k => errorEntry k s

end Sys2Proof.Machine
end

