-- ==== Sys2Proof/Machine/Operands.lean ====
section
/-! DEFINITION. The operands of the commands: dimensions, pixels, samples, palette entries and symbols as the rules
read them, and the arithmetic notation of rule R10. -/

namespace Sys2Proof.Machine

/-- `ceil(a / b)` (rule R10). -/
def ceilDiv (a b : Nat) : Nat := (a + b - 1) / b

/-- `le16(v)` (rules R10, R103): the low byte, then the high byte. -/
def le16 (v : Half) : List Byte :=
  [v.extractLsb' 0 8, v.extractLsb' 8 8]

/-- `chan(t, c)` (rule R11). -/
def Rgb.chan (t : Rgb) : Channel → Byte
  | .red => t.r
  | .green => t.g
  | .blue => t.b

/-- The bytes of a colour at rising offsets: red, green, blue (rule R65). -/
def Rgb.bytes (t : Rgb) : List Byte := [t.r, t.g, t.b]

/-- The colour whose red byte is at offset `a` of a space (rule R65). -/
def State.rgbAt (s : State) (space : Space) (a : Nat) : Rgb :=
  { r := s.byte space a, g := s.byte space (a + 1), b := s.byte space (a + 2) }

/-- Pixel `p` of the frame buffer; the alpha byte `FB[4p+3]` is not read (rules R40, R64). -/
def State.pixel (s : State) (p : Nat) : Rgb := s.rgbAt .fb (4 * p)

/-- `SMP[j]` (rule R41). -/
def State.sampleAt (s : State) (j : Nat) : Rgb := s.rgbAt .smp (3 * j)

/-- `PAL[i]` (rule R38). -/
def State.palAt (s : State) (i : Nat) : Rgb := s.rgbAt .pal (3 * i)

/-- The sample set, `SMP[0 .. SMP_COUNT-1]` (rule R41). -/
def State.samples (s : State) : List Rgb :=
  (List.range s.smpCount.toNat).map s.sampleAt

/-- The palette, all 256 entries in index order (rule R38). -/
def State.palette (s : State) : List Rgb :=
  (List.range 256).map s.palAt

/-- The symbols `IDX[0 .. n-1]` (rule R150). -/
def State.symbols (s : State) (n : Nat) : List Byte :=
  (List.range n).map (s.byte .idx)

/-- The bytes produced so far, `OUT[0 .. OUT_LEN-1]` (rule R43). -/
def State.output (s : State) : List Byte :=
  (List.range s.outLen.toNat).map (s.byte .out)

/-- `SMP[0 ..] <- cs`. -/
def State.setSamples (s : State) (cs : List Rgb) : State :=
  s.setBytes .smp 0 (cs.flatMap Rgb.bytes)

/-- `PAL[0 ..] <- cs`. -/
def State.setPalette (s : State) (cs : List Rgb) : State :=
  s.setBytes .pal 0 (cs.flatMap Rgb.bytes)

/-- `FRAME_W × FRAME_H` (rules R27, R122, R144). -/
def State.framePixels (s : State) : Nat := s.frameW.toNat * s.frameH.toNat

end Sys2Proof.Machine
end

