-- ==== Sys2Proof/Machine/Packer.lean ====
section
/-! DEFINITION. Unit U4, bitstream_packer: PackInit, PutBlkByte, PutCode, Flush (spec file 44_bitstream_packer.md). -/

namespace Sys2Proof.Machine

/-- The fill count `bl` of rule R35. -/
def PackRegs.bl (p : PackRegs) : Nat := p.blk.length

def State.setBlk (s : State) (blk : List Byte) : State :=
  { s with pack := { s.pack with blk := blk } }

def State.setBits (s : State) (acc nb : Nat) : State :=
  { s with pack := { s.pack with acc := acc, nb := nb } }

/-- `PackInit()` (rule R171). -/
def packInit (s : State) : State :=
  { s with pack := { acc := 0, nb := 0, blk := [] } }

/-- Writes the sub-block out, its length byte first, and empties the buffer (rules R172, R175). -/
def outBlk (s : State) : Except ErrCode State :=
  andThen (outBytes (BitVec.ofNat 8 s.pack.bl :: s.pack.blk) s) fun t => .ok (t.setBlk [])

/-- `PutBlkByte(b)` (rule R172): a full sub-block is written when its 255th byte arrives. -/
def putBlkByte (b : Byte) (s : State) : Except ErrCode State :=
  let t := s.setBlk (s.pack.blk ++ [b])
  if t.pack.bl = 255 then outBlk t else .ok t

/-- The loop of rule R173 while `nb ≥ 8`, for at most the given number of passes. -/
def drainBytes : Nat → State → Except ErrCode State
  | 0, s => .ok s
  | passes + 1, s =>
    if 8 ≤ s.pack.nb then
      andThen (putBlkByte (BitVec.ofNat 8 (s.pack.acc % 256)) s) fun t =>
        drainBytes passes (t.setBits (t.pack.acc / 256) (t.pack.nb - 8))
    else .ok s

/-- `PutCode(c, w)` (rule R173). Each pass of the loop takes 8 from `nb`, so `nb + w` passes are more than enough. -/
def putCode (c w : Nat) (s : State) : Except ErrCode State :=
  drainBytes (s.pack.nb + w) (s.setBits (s.pack.acc + c * 2 ^ s.pack.nb) (s.pack.nb + w))

/-- The first part of `Flush()` (rule R174): the pending bits as one more byte, zeros above them. -/
def flushBits (s : State) : Except ErrCode State :=
  if 0 < s.pack.nb then
    andThen (putBlkByte (BitVec.ofNat 8 s.pack.acc) s) fun t => .ok (t.setBits 0 0)
  else .ok s

/-- The second part of `Flush()` (rule R175): the last sub-block, if it holds a byte. -/
def flushBlk (s : State) : Except ErrCode State :=
  if 0 < s.pack.bl then outBlk s else .ok s

/-- `Flush()` (rules R174, R175). -/
def flush (s : State) : Except ErrCode State :=
  andThen (andThen (flushBits s) flushBlk) (outByte 0)

end Sys2Proof.Machine
end

