-- ==== Sys2Proof/Machine/Lzw.lean ====
section
/-! DEFINITION. Unit U3, lzw_encoder: the procedure LzwStream and the body of the command LZW (spec file
43_lzw_encoder.md). -/

namespace Sys2Proof.Machine

/-- `minCodeSize = max(2, colorDepthBits)` (rule R152). -/
def minCodeSize (depth : Nat) : Nat := max 2 depth

/-- The code DICT gives to the string of `pre` extended by `sym`, if it has one (rule R44). -/
def dictFind (pre : Nat) (sym : Byte) : List DictEntry → Option Nat
  | [] => none
  | e :: es => if e.pre = pre ∧ e.sym = sym then some e.code else dictFind pre sym es

def State.setPre (s : State) (pre : Nat) : State :=
  { s with lzw := { s.lzw with pre := pre } }

/-- The constants of one stream (rule R152). -/
def setConstants (depth : Nat) (s : State) : State :=
  { s with
    lzw := { s.lzw with
      m := minCodeSize depth
      clear := 2 ^ minCodeSize depth
      endCode := 2 ^ minCodeSize depth + 1 } }

/-- `DICT <- empty ; w <- m + 1 ; next <- end + 1` (rules R153, R154, R157). -/
def resetDict (s : State) : State :=
  { s with lzw := { s.lzw with dict := [], w := s.lzw.m + 1, next := s.lzw.endCode + 1 } }

/-- Insertion and width increase (rule R156). -/
def insertString (sym : Byte) (s : State) : State :=
  { s with
    lzw := { s.lzw with
      dict := ⟨s.lzw.pre, sym, s.lzw.next⟩ :: s.lzw.dict
      w := if s.lzw.next = 2 ^ s.lzw.w ∧ s.lzw.w < 12 then s.lzw.w + 1 else s.lzw.w
      next := s.lzw.next + 1 } }

/-- The dictionary step after a prefix code was emitted (rules R156, R157). -/
def growDict (sym : Byte) (s : State) : Except ErrCode State :=
  if s.lzw.next < 4096 then .ok (insertString sym s)
  else andThen (putCode s.lzw.clear s.lzw.w s) fun t => .ok (resetDict t)

/-- One pass of the main loop (rules R155, R160). -/
def lzwPass (sym : Byte) (s : State) : Except ErrCode State :=
  if s.lzw.clear ≤ sym.toNat then .error .encodingFailure
  else
    match dictFind s.lzw.pre sym s.lzw.dict with
    | some code => .ok (s.setPre code)
    | none =>
      andThen (andThen (putCode s.lzw.pre s.lzw.w s) (growDict sym)) fun t => .ok (t.setPre sym.toNat)

/-- The main loop over the symbols after the first (rule R155). -/
def lzwLoop : List Byte → State → Except ErrCode State
  | [], s => .ok s
  | sym :: syms, s => andThen (lzwPass sym s) (lzwLoop syms)

/-- The end code and the flush (rules R158, R159). -/
def endStream (s : State) : Except ErrCode State :=
  andThen (putCode s.lzw.endCode s.lzw.w s) flush

/-- The stream after the opening clear code (rules R155, R158, R159, R160). -/
def encodeSymbols : List Byte → State → Except ErrCode State
  | [], s => endStream s
  | sym :: syms, s =>
    if s.lzw.clear ≤ sym.toNat then .error .encodingFailure
    else
      andThen (lzwLoop syms (s.setPre sym.toNat)) fun t =>
        andThen (putCode t.lzw.pre t.lzw.w t) endStream

/-- Everything up to and including the opening clear code (rules R150 to R154, R171). -/
def openStream (depth : Nat) (s : State) : Except ErrCode State :=
  andThen (outByte (BitVec.ofNat 8 (minCodeSize depth)) (setConstants depth s)) fun t =>
    let u := resetDict (packInit t)
    putCode u.lzw.clear u.lzw.w u

/-- `LzwStream(depth, n)` (rule R151). -/
def lzwStream (depth n : Nat) (s : State) : Except ErrCode State :=
  andThen (openStream depth s) (encodeSymbols (s.symbols n))

/-- The body of LZW (rule R162). -/
def runLzw (depth : BitVec 4) (s : State) : Except ErrCode State :=
  lzwStream depth.toNat s.idxLen.toNat (dropOutput s)

end Sys2Proof.Machine
end

