-- ==== Sys2Proof/Machine/Container.lean ====
section
/-! DEFINITION. Unit U5, gif_container_writer: WriteHeader, WriteFrame, WriteTrailer (spec file
45_gif_container_writer.md; the byte tables are rules R96 to R102). -/

namespace Sys2Proof.Machine

/-- `Signature()` (rule R187): GIF89a. -/
def signature : List Byte := [0x47, 0x49, 0x46, 0x38, 0x39, 0x61]

/-- `ScreenDesc(W, H)` (rule R188). -/
def screenDesc (w h : Half) : List Byte := le16 w ++ le16 h ++ [0x70, 0x00, 0x00]

/-- `LoopExt()` (rule R189): NETSCAPE2.0 with loop count 0. -/
def loopExt : List Byte :=
  [0x21, 0xFF, 0x0B, 0x4E, 0x45, 0x54, 0x53, 0x43, 0x41, 0x50, 0x45, 0x32, 0x2E, 0x30,
    0x03, 0x01, 0x00, 0x00, 0x00]

/-- `GraphicCtl(D)` (rule R191). -/
def graphicCtl (d : Half) : List Byte := [0x21, 0xF9, 0x04, 0x00] ++ le16 d ++ [0x00, 0x00]

/-- `ImageDesc(W, H)` (rule R192). -/
def imageDesc (w h : Half) : List Byte := [0x2C] ++ le16 0 ++ le16 0 ++ le16 w ++ le16 h ++ [0x87]

/-- `LocalTable()` (rule R193). -/
def localTable (s : State) : List Byte := s.palette.flatMap Rgb.bytes

/-- `WriteHeader(W, H)` (rule R186). -/
def writeHeader (w h : Half) (s : State) : Except ErrCode State :=
  andThen (outBytes signature s) fun t =>
    andThen (outBytes (screenDesc w h) t) (outBytes loopExt)

/-- `ImageData(W, H)` (rule R194): the colour depth of a container is 8 (rule R7). -/
def imageData (w h : Half) (s : State) : Except ErrCode State :=
  lzwStream 8 (w.toNat * h.toNat) s

/-- `WriteFrame(W, H, D)` (rule R190). -/
def writeFrame (w h d : Half) (s : State) : Except ErrCode State :=
  andThen (outBytes (graphicCtl d) s) fun t =>
    andThen (outBytes (imageDesc w h) t) fun u =>
      andThen (outBytes (localTable u) u) (imageData w h)

/-- `WriteTrailer()` (rule R195). -/
def writeTrailer (s : State) : Except ErrCode State := outByte 0x3B s

end Sys2Proof.Machine
end

