-- ==== Sys2Proof/Machine/Flags.lean ====
section
/-! DEFINITION. STATUS and the other registers as a host reads them (rules R21, R23, R25). No command sets a condition
code, so these are all the flags there are. -/

namespace Sys2Proof.Machine

/-- The 2-bit value of PH (rule R24). -/
def Phase.code : Phase → BitVec 2
  | .idle => 0
  | .opened => 1
  | .done => 2
  | .error => 3

/-- The code of an error (rule R231). -/
def ErrCode.code : ErrCode → BitVec 4
  | .noError => 0
  | .emptyInput => 1
  | .dimensionMismatch => 2
  | .encodingFailure => 3
  | .cancelled => 4
  | .badDimension => 5
  | .outOverflow => 6

/-- CUR_OP as the 8-bit opcode of rule R33. -/
def IssuedOp.opcode : IssuedOp → BitVec 8
  | .begin => 0x01
  | .frame => 0x02
  | .sample => 0x10
  | .mcut => 0x11
  | .index => 0x12
  | .lzw _ => 0x13

/-- STATUS.DONE (rule R23). -/
def State.doneFlag (s : State) : Bool := s.phase == .done

/-- STATUS.ERR (rule R23). -/
def State.errFlag (s : State) : Bool := s.phase == .error

/-- The STATUS word, bit 31 first: zero[31:10], PH[9:8], zero[7:5], CMD_REJ, CANCEL_REQ, ERR, DONE, BUSY (rule R21). -/
def State.statusWord (s : State) : Word :=
  (0 : BitVec 22) ++ s.phase.code ++ (0 : BitVec 3) ++ BitVec.ofBool s.cmdRej ++ BitVec.ofBool s.cancelReq ++
    BitVec.ofBool s.errFlag ++ BitVec.ofBool s.doneFlag ++ BitVec.ofBool s.busy

/-- The value of a register as the rules give it: the field, with 0 in every `zero` bit (rule R21). -/
def State.csrValue (s : State) : Csr → Word
  | .cmd => 0
  | .status => s.statusWord
  | .errCode => s.errCode.code.setWidth 32
  | .errFrame => s.errFrame.setWidth 32
  | .width => s.width.setWidth 32
  | .height => s.height.setWidth 32
  | .delay => s.delay.setWidth 32
  | .frameCount => s.frameCount.setWidth 32
  | .frameW => s.frameW.setWidth 32
  | .frameH => s.frameH.setWidth 32
  | .framesDone => s.framesDone.setWidth 32
  | .outLen => s.outLen
  | .smpCount => s.smpCount
  | .bktCount => s.bktCount.setWidth 32
  | .idxLen => s.idxLen
  | .stride => s.stride

end Sys2Proof.Machine
end

