-- ==== Sys2Proof/Machine/Indexer.lean ====
section
/-! DEFINITION. Unit U2, color_indexer: the procedure Index and the body of the command INDEX (spec file
42_color_indexer.md). -/

namespace Sys2Proof.Machine

/-- The square of the difference of two channel values (rule R142): their distance times itself. -/
def squaredDiff (a b : Byte) : Nat :=
  let d := max a.toNat b.toNat - min a.toNat b.toNat
  d * d

/-- Squared Euclidean RGB distance, exact (rule R142). -/
def dist (t u : Rgb) : Nat := squaredDiff t.r u.r + squaredDiff t.g u.g + squaredDiff t.b u.b

/-- The inner loop of rule R141 from entry `i` on: a strictly smaller distance replaces the best so far. -/
def nearestFrom (px : Rgb) : Nat → List Rgb → Nat → Nat → Nat
  | _, [], best, _ => best
  | i, e :: es, best, bestD =>
    if dist px e < bestD then nearestFrom px (i + 1) es i (dist px e)
    else nearestFrom px (i + 1) es best bestD

/-- The index of the nearest entry, the lowest of equal ones (rules R141, R143). -/
def nearest (palette : List Rgb) (px : Rgb) : Nat :=
  match palette with
  | [] => 0
  | e :: es => nearestFrom px 1 es 0 (dist px e)

/-- `Index(W, H)` (rule R141) on a frame of `n = W × H` pixels. -/
def indexFrame (n : Nat) (s : State) : State :=
  let palette := s.palette
  { s.setBytes .idx 0 ((List.range n).map fun p => BitVec.ofNat 8 (nearest palette (s.pixel p))) with
    idxLen := BitVec.ofNat 32 n }

/-- The body of INDEX (rule R144). -/
def runIndex (s : State) : Except ErrCode State :=
  if s.params.maxPixels < s.framePixels then .error .badDimension
  else .ok (indexFrame s.framePixels s)

end Sys2Proof.Machine
end

