-- ==== Sys2Proof/Machine/Quantizer.lean ====
section
/-! DEFINITION. Unit U1, median_cut_quantizer: the procedures Sample and MedianCut, and the bodies of the commands
SAMPLE and MCUT (spec file 41_median_cut_quantizer.md). -/

namespace Sys2Proof.Machine

/-! ### Sampling -/

/-- The stride of rule R121: the smallest one that keeps the count within SAMPLE_BUDGET. -/
def sampleStride (n budget : Nat) : Nat := ceilDiv n budget

/-- The sampled colours: pixels 0, stride, 2×stride, ... below `n` (rule R121). -/
def sampledPixels (s : State) (n stride : Nat) : List Rgb :=
  (List.range (ceilDiv n stride)).map fun j => s.pixel (j * stride)

/-- `Sample(W, H)` (rule R121) on a frame of `n = W × H` pixels. -/
def sampleFrame (n : Nat) (s : State) : State :=
  if n = 0 then { s with stride := 1, smpCount := 0 }
  else
    let stride := sampleStride n s.params.sampleBudget
    { s.setSamples (sampledPixels s n stride) with
      stride := BitVec.ofNat 32 stride
      smpCount := BitVec.ofNat 32 (ceilDiv n stride) }

/-! ### Median cut -/

/-- The samples in their current order and the buckets in the order produced. -/
structure CutState where
  samples : List Rgb
  buckets : List Bucket
  deriving DecidableEq, Repr

/-- The samples of a bucket: `SMP[start .. start+len-1]` (rule R123). -/
def bucketMembers (samples : List Rgb) (b : Bucket) : List Rgb :=
  (samples.drop b.start).take b.len

def chanMax (cs : List Rgb) (c : Channel) : Nat :=
  cs.foldl (fun acc t => max acc (t.chan c).toNat) 0

def chanMin (cs : List Rgb) (c : Channel) : Nat :=
  cs.foldl (fun acc t => min acc (t.chan c).toNat) 255

/-- `range(b, c)` over the members of a bucket (rule R124). -/
def chanRange (cs : List Rgb) (c : Channel) : Nat := chanMax cs c - chanMin cs c

/-- The best candidate so far: bucket number, channel, and its range (rule R125). -/
structure Candidate where
  bucket : Nat
  channel : Channel
  range : Nat
  deriving DecidableEq, Repr

/-- A candidate replaces the best so far only when its range is strictly greater (rule R125). -/
def better (best : Option Candidate) (new : Candidate) : Option Candidate :=
  match best with
  | none => if 0 < new.range then some new else none
  | some old => if old.range < new.range then some new else some old

/-- One bucket of the scan: channels in the order R, G, B, and only with two or more members (rule R125). -/
def scanBucket (samples : List Rgb) (b : Nat) (bk : Bucket) (best : Option Candidate) : Option Candidate :=
  if 2 ≤ bk.len then
    let members := bucketMembers samples bk
    better (better (better best ⟨b, .red, chanRange members .red⟩) ⟨b, .green, chanRange members .green⟩)
      ⟨b, .blue, chanRange members .blue⟩
  else best

/-- The scan over the buckets from number `b` up. -/
def scanFrom (samples : List Rgb) : Nat → List Bucket → Option Candidate → Option Candidate
  | _, [], best => best
  | b, bk :: rest, best => scanFrom samples (b + 1) rest (scanBucket samples b bk best)

/-- `Select()` (rule R125). -/
def select (cut : CutState) : Option Candidate := scanFrom cut.samples 0 cut.buckets none

/-- Puts a colour in front of the first one whose channel value is not smaller. -/
def insertByChan (c : Channel) (t : Rgb) : List Rgb → List Rgb
  | [] => [t]
  | u :: us => if (t.chan c).toNat ≤ (u.chan c).toNat then t :: u :: us else u :: insertByChan c t us

/-- Stable ascending sort by a channel (rule R126): colours equal in the channel keep their order. -/
def sortByChan (c : Channel) : List Rgb → List Rgb
  | [] => []
  | t :: ts => insertByChan c t (sortByChan c ts)

/-- Sorts the members of a bucket in place; samples outside it do not move (rule R126). -/
def sortBucket (samples : List Rgb) (b : Bucket) (c : Channel) : List Rgb :=
  samples.take b.start ++ sortByChan c (bucketMembers samples b) ++ samples.drop (b.start + b.len)

/-- Sorts and splits the selected bucket: the lower half keeps its number, the upper half becomes the last bucket
(rule R127). -/
def splitBucket (cut : CutState) (best : Candidate) : CutState :=
  match cut.buckets[best.bucket]? with
  | none => cut
  | some bk =>
    let mid := bk.len / 2
    { samples := sortBucket cut.samples bk best.channel
      buckets := cut.buckets.set best.bucket ⟨bk.start, mid⟩ ++ [⟨bk.start + mid, bk.len - mid⟩] }

/-- The loop of rule R130, for at most `passes` more splits. -/
def cutLoop : Nat → CutState → CutState
  | 0, cut => cut
  | passes + 1, cut =>
    match select cut with
    | none => cut
    | some best => cutLoop passes (splitBucket cut best)

/-- One bucket holds all samples; no samples, no bucket (rule R123). -/
def initialCut (samples : List Rgb) : CutState :=
  { samples := samples
    buckets := if samples.length = 0 then [] else [⟨0, samples.length⟩] }

/-- The loop ends after at most 255 passes, since each adds one bucket to the first (rule R130). -/
def medianCutOf (samples : List Rgb) : CutState := cutLoop 255 (initialCut samples)

def chanSum (cs : List Rgb) (c : Channel) : Nat :=
  cs.foldl (fun acc t => acc + (t.chan c).toNat) 0

/-- `mean(b, c)`: the mean rounded to nearest, one half up (rule R128). -/
def chanMean (cs : List Rgb) (c : Channel) : Nat :=
  (2 * chanSum cs c + cs.length) / (2 * cs.length)

/-- The representative colour of a bucket's members (rule R128). -/
def meanColour (cs : List Rgb) : Rgb :=
  { r := BitVec.ofNat 8 (chanMean cs .red)
    g := BitVec.ofNat 8 (chanMean cs .green)
    b := BitVec.ofNat 8 (chanMean cs .blue) }

def black : Rgb := ⟨0, 0, 0⟩

/-- The palette: the means in bucket order, padded with black to 256 entries (rule R129). -/
def paletteOf (cut : CutState) : List Rgb :=
  cut.buckets.map (fun bk => meanColour (bucketMembers cut.samples bk)) ++
    List.replicate (256 - cut.buckets.length) black

/-- `MedianCut()` (rule R130). -/
def medianCut (s : State) : State :=
  let cut := medianCutOf s.samples
  { (s.setSamples cut.samples).setPalette (paletteOf cut) with
    bkt := cut.buckets
    bktCount := BitVec.ofNat 9 cut.buckets.length }

/-! ### The bodies of the commands -/

/-- The body of SAMPLE (rule R122). -/
def runSample (s : State) : Except ErrCode State :=
  if s.params.maxPixels < s.framePixels then .error .badDimension
  else .ok (sampleFrame s.framePixels s)

/-- The body of MCUT (rule R131). -/
def runMcut (s : State) : Except ErrCode State := .ok (medianCut s)

end Sys2Proof.Machine
end

