-- ==== Sys2Proof/Machine/Sequencer.lean ====
section
/-! DEFINITION. The sequencer: the bodies of BEGIN and FRAME, completion, and the meaning of each of the nine
commands (spec file 46_sequencer.md). -/

namespace Sys2Proof.Machine

/-! ### The bodies of BEGIN and FRAME -/

/-- The first line of BEGIN (rule R207): `OUT_LEN <- 0 ; FRAMES_DONE <- 0`. -/
def startConversion (s : State) : State := { dropOutput s with framesDone := 0 }

/-- Check 2 of BEGIN (rule R207). -/
def badDimensions (s : State) : Bool :=
  s.width.toNat == 0 || s.height.toNat == 0 || s.width.toNat % 2 == 1 || s.height.toNat % 2 == 1 ||
    decide (s.params.maxPixels < s.width.toNat * s.height.toNat)

/-- `raise Cancelled` if CANCEL_REQ is set, else go on (rules R207, R208, R210). -/
def testCancel (f : State → Except ErrCode State) (s : State) : Except ErrCode State :=
  if s.cancelReq then .error .cancelled else f s

/-- The body of BEGIN after its first line (rule R207). -/
def runBegin (s : State) : Except ErrCode State :=
  if s.frameCount = 0 then .error .emptyInput
  else if badDimensions s then .error .badDimension
  else andThen (writeHeader s.width s.height s) (testCancel fun t => .ok { t with phase := .opened })

/-- `Finish()` (rule R209). -/
def finishFrame (s : State) : Except ErrCode State :=
  if s.framesDone.toNat + 1 = s.frameCount.toNat then
    andThen (writeTrailer s) fun t => .ok { t with framesDone := t.framesDone + 1, phase := .done }
  else .ok { s with framesDone := s.framesDone + 1 }

/-- The body of FRAME (rule R208). CANCEL_REQ is tested where rule R208 tests it, before `Finish()` writes the trailer:
a cancelled last FRAME whose frame group fits OUT and whose trailer does not raises Cancelled, the first raise its
pseudocode reaches (rule R239's first sentence; its last sentence read alone would give OutOverflow). DEDUCED, log 27. -/
def runFrame (s : State) : Except ErrCode State :=
  if s.frameW ≠ s.width ∨ s.frameH ≠ s.height then .error .dimensionMismatch
  else
    let n := s.width.toNat * s.height.toNat
    andThen (writeFrame s.width s.height s.delay (indexFrame n (medianCut (sampleFrame n s))))
      (testCancel finishFrame)

/-! ### Completion -/

/-- The running command completes (rule R205). An error of BEGIN is raised after its first line
(DEDUCED, log 16). -/
def complete (s : State) : State :=
  match s.curOp with
  | .begin => conclude (startConversion s) (runBegin (startConversion s))
  | .frame => conclude s (runFrame s)
  | .sample => conclude s (runSample s)
  | .mcut => conclude s (runMcut s)
  | .index => conclude s (runIndex s)
  | .lzw depth => conclude s (runLzw depth s)

/-- Issues a command. It completes in the same step unless the host's next access reaches the core before that
(rules R205, R275; DESIGN CHOICE, log 3). -/
def launch (op : IssuedOp) (s : State) : Host.Outcome State Fault Refusal :=
  if s.overtaken then .next (issue op s) else .next (complete (issue op s))

/-- Issues a command that is legal in one phase only, and only while BUSY is 0 (rule R94). -/
def launchIn (phase : Phase) (op : IssuedOp) (s : State) : Host.Outcome State Fault Refusal :=
  if s.busy = false ∧ s.phase = phase then launch op s else .next (reject s)

/-! ### The nine commands -/

/-- NOP (rule R206). -/
def execNop (s : State) : Host.Outcome State Fault Refusal :=
  if s.busy then .next (reject s) else .next s

/-- BEGIN (rule R207). -/
def execBegin (s : State) : Host.Outcome State Fault Refusal := launchIn .idle .begin s

/-- FRAME (rule R208). -/
def execFrame (s : State) : Host.Outcome State Fault Refusal := launchIn .opened .frame s

/-- Whether a CANCEL written while a command runs is recorded (rule R210). -/
def IssuedOp.cancellable : IssuedOp → Bool
  | .begin => true
  | .frame => true
  | .sample => false
  | .mcut => false
  | .index => false
  | .lzw _ => false

/-- CANCEL (rule R210); never rejected. -/
def execCancel (s : State) : Host.Outcome State Fault Refusal :=
  if s.busy then
    if s.curOp.cancellable then .next { s with cancelReq := true } else .next s
  else if s.phase = .opened then .next (errorEntry .cancelled s)
  else .next s

/-- CLEAR (rule R211). -/
def execClear (s : State) : Host.Outcome State Fault Refusal :=
  if s.busy then .next (reject s) else .next (backToIdle s)

/-- SAMPLE (rule R122). -/
def execSample (s : State) : Host.Outcome State Fault Refusal := launchIn .idle .sample s

/-- MCUT (rule R131). -/
def execMcut (s : State) : Host.Outcome State Fault Refusal := launchIn .idle .mcut s

/-- INDEX (rule R144). -/
def execIndex (s : State) : Host.Outcome State Fault Refusal := launchIn .idle .index s

/-- LZW (rule R162). A depth outside 1 to 8 makes the command word malformed (rule R93; DEDUCED,
log 24). -/
def execLzw (depth : BitVec 4) (s : State) : Host.Outcome State Fault Refusal :=
  if (Instr.lzw depth).wf then launchIn .idle (.lzw depth) s else .next (reject s)

end Sys2Proof.Machine
end

