-- ==== Sys2Proof/Machine/Dispatch.lean ====
section
/-! DEFINITION. One arm per command. -/

namespace Sys2Proof.Machine

def exec (i : Instr) (s : State) : Host.Outcome State Fault Refusal :=
  match i with
  | .nop => Sys2Proof.Machine.execNop s
  | .begin => Sys2Proof.Machine.execBegin s
  | .frame => Sys2Proof.Machine.execFrame s
  | .cancel => Sys2Proof.Machine.execCancel s
  | .clear => Sys2Proof.Machine.execClear s
  | .sample => Sys2Proof.Machine.execSample s
  | .mcut => Sys2Proof.Machine.execMcut s
  | .index => Sys2Proof.Machine.execIndex s
  | .lzw depth => Sys2Proof.Machine.execLzw depth s

end Sys2Proof.Machine
end

