-- ==== Sys2Proof/Machine/Bus.lean ====
section
/-! DEFINITION. The host's accesses: register reads and writes, memory reads and writes, a command written to CMD, and
hardware reset (rules R21, R22, R31, R32, R60 to R71, R260). -/

namespace Sys2Proof.Machine

/-- The register at a byte offset of the CSR space (rule R21); the other offsets are reserved (rule R32). -/
def csrAt : Nat → Option Csr
  | 0x00 => some .cmd
  | 0x04 => some .status
  | 0x08 => some .errCode
  | 0x0C => some .errFrame
  | 0x10 => some .width
  | 0x14 => some .height
  | 0x18 => some .delay
  | 0x1C => some .frameCount
  | 0x20 => some .frameW
  | 0x24 => some .frameH
  | 0x28 => some .framesDone
  | 0x2C => some .outLen
  | 0x30 => some .smpCount
  | 0x34 => some .bktCount
  | 0x38 => some .idxLen
  | 0x3C => some .stride
  | _ => none

/-- The access is 32 bits wide and aligned to 4 bytes (rule R62). -/
def csrAccessDefined (offset size : Nat) : Bool := size == 4 && offset % 4 == 0

/-- A write while BUSY is 0 to a register writable in phase IDLE only (rules R21, R31). -/
def writeInIdle (s : State) (t : State) : State := if s.phase = .idle then t else s

/-- A write while BUSY is 0 to a register other than CMD (rule R31, clauses 2 to 5). -/
def writeField (c : Csr) (v : Word) (s : State) : State :=
  match c with
  | .width => writeInIdle s { s with width := v.setWidth 16 }
  | .height => writeInIdle s { s with height := v.setWidth 16 }
  | .delay => writeInIdle s { s with delay := v.setWidth 16 }
  | .frameCount => writeInIdle s { s with frameCount := v.setWidth 16 }
  | .frameW => { s with frameW := v.setWidth 16 }
  | .frameH => { s with frameH := v.setWidth 16 }
  | .smpCount => writeInIdle s (if v.toNat ≤ s.params.sampleBudget then { s with smpCount := v } else s)
  | .idxLen => writeInIdle s (if v.toNat ≤ s.params.maxPixels then { s with idxLen := v } else s)
  | .cmd | .status | .errCode | .errFrame | .framesDone | .outLen | .bktCount | .stride => s

/-- A write to CMD is decoded at once; a malformed word is rejected (rules R22, R205, R212). -/
def writeCommand (w : Word) (s : State) : Host.Outcome State Fault Refusal :=
  match decode w with
  | .ok i => exec i s
  | .error _ => .next (reject s)

/-- A register write (rule R31); reserved offsets ignore it (rule R32). -/
def writeCsr (offset : Nat) (v : Word) (s : State) : Host.Outcome State Fault Refusal :=
  match csrAt offset with
  | some .cmd => writeCommand v s
  | some c => .next (if s.busy then s else writeField c v s)
  | none => .next s

/-- A register read (rules R21, R32). While BUSY is 1 only STATUS has a defined value (rules R23, R71);
reserved offsets read 0 then too (DEDUCED, log 17). -/
def readCsr (offset : Nat) (s : State) : State :=
  match csrAt offset with
  | some .status => { s with rdata := .word s.statusWord }
  | some c =>
    if s.busy then { s with rdata := .word (Config.freeReadWord s.draws), draws := s.draws + 1 }
    else { s with rdata := .word (s.csrValue c) }
  | none => { s with rdata := .word 0 }

/-- One byte of a host write while BUSY is 0: OUT and offsets beyond the space ignore it (rule R61). -/
def storeByte (space : Space) (a : Nat) (b : Byte) (s : State) : State :=
  if space ≠ .out ∧ a < spaceSize s.params space then s.setByte space a b else s

def storeBytes (space : Space) : Nat → List Byte → State → State
  | _, [], s => s
  | a, b :: bs, s => storeBytes space (a + 1) bs (storeByte space a b s)

/-- A host write to a memory; while BUSY is 1 it has no effect (rules R61, R67, R71; DEDUCED, log 20). -/
def storeMem (space : Space) (a : Nat) (bs : List Byte) (s : State) : State :=
  if s.busy then s else storeBytes space a bs s

/-- A host read of this byte has a defined value: BUSY is 0, the offset is inside the space, and in OUT below OUT_LEN
(rules R43, R61, R71). -/
def readDefined (s : State) (space : Space) (a : Nat) : Bool :=
  !s.busy && decide (a < spaceSize s.params space) && (space != .out || decide (a < s.outLen.toNat))

/-- Byte `k` of a host read that starts at offset `a`. -/
def loadByte (s : State) (space : Space) (a k : Nat) : Byte :=
  if readDefined s space (a + k) then s.byte space (a + k) else Config.freeReadByte s.draws k

/-- A host read of consecutive bytes (rule R67). -/
def loadMem (space : Space) (a count : Nat) (s : State) : State :=
  { s with rdata := .bytes ((List.range count).map (loadByte s space a)), draws := s.draws + 1 }

/-- Hardware reset (rule R260): every register 0, every memory unspecified, the running command abandoned. The
parameters are not state, and accesses still to come reach the core afterwards (DESIGN CHOICE,
log 19). -/
def hardwareReset (s : State) : State :=
  { State.reset with
    params := s.params
    fb := s.fb.forget
    smp := s.smp.forget
    pal := s.pal.forget
    idx := s.idx.forget
    out := s.out.forget
    queue := s.queue
    rdata := s.rdata
    draws := s.draws }

/-- One host access reaches the core. -/
def perform (access : HostAccess) (s : State) : Host.Outcome State Fault Refusal :=
  match access with
  | .writeCsr offset size v =>
    if csrAccessDefined offset size then writeCsr offset v s else .refused (.undefinedCsrAccess offset size)
  | .readCsr offset size =>
    if csrAccessDefined offset size then .next (readCsr offset s) else .refused (.undefinedCsrAccess offset size)
  | .store space a bs => .next (storeMem space a bs s)
  | .load space a count => .next (loadMem space a count s)
  | .reset => .next (hardwareReset s)

/-- The access that reaches the core next, taken off the queue; none when the host makes none, or when the running
command completes before it (rules R69, R71, R205). -/
def takeAccess (s : State) : Option (HostAccess × State) :=
  match s.queue with
  | [] => none
  | e :: rest => if s.busy && !e.early then none else some (e.access, { s with queue := rest })

/-- With no access to serve, a running command completes, and an idle core waits (rules R205, R261). -/
def proceed (s : State) : State := if s.busy then complete s else s

/-- The host's write of a command word to CMD (rule R90). -/
def commandWrite (w : Word) : HostAccess := .writeCsr 0x00 4 w

end Sys2Proof.Machine
end

