-- ==== Sys2Proof/Machine/Step.lean ====
section
/-! DEFINITION. One step: the next host access reaches the core, or the running command completes, or an idle core
waits (rules R69, R205, R261). -/

namespace Sys2Proof.Machine

def step (s : State) : Host.Outcome State Fault Refusal :=
  match takeAccess s with
  | some (access, t) => perform access t
  | none => .next (proceed s)

/-- Puts the write of a command word in front of the host's accesses, so that it is the one that reaches the core
next. Bits at and above `nbits` are 0. -/
def State.withFetchWord (s : State) (nbits w : Nat) : State :=
  { s with queue := ⟨true, commandWrite (BitVec.ofNat 32 (w % 2 ^ nbits))⟩ :: s.queue }

end Sys2Proof.Machine
end

