-- ==== Sys2Proof/Safety.lean ====
section
/-! DEFINITION. The terms in which claims are stated: when a command can run to completion, the invariants of rule
R46, the grammar of the container (rule R95), and when a command is legal (rule R94). -/

namespace Sys2Proof.Machine

/-- A command written now is neither refused for BUSY nor for the phase, and the host makes no further access before
it completes. -/
structure Ready (phase : Phase) (s : State) : Prop where
  idle : s.busy = false
  inPhase : s.phase = phase
  alone : s.overtaken = false

/-- A running command completes in the next step. -/
structure Completing (op : IssuedOp) (s : State) : Prop where
  running : s.busy = true
  named : s.curOp = op
  alone : s.overtaken = false

/-- The host's next access reaches the core before the running command, if any, completes. -/
def Arrives (access : HostAccess) (rest : List HostEvent) (s : State) : Prop :=
  ∃ early, s.queue = ⟨early, access⟩ :: rest ∧ (s.busy = true → early = true)

/-- Rule R94: the states in which a well-formed command is accepted. -/
def Legal (i : Instr) (s : State) : Prop :=
  match i with
  | .nop => s.busy = false
  | .begin => s.busy = false ∧ s.phase = .idle
  | .frame => s.busy = false ∧ s.phase = .opened
  | .cancel => True
  | .clear => s.busy = false
  | .sample => s.busy = false ∧ s.phase = .idle
  | .mcut => s.busy = false ∧ s.phase = .idle
  | .index => s.busy = false ∧ s.phase = .idle
  | .lzw _ => s.busy = false ∧ s.phase = .idle

/-- Rule R93: a command word is malformed. -/
def Malformed (w : Word) : Prop :=
  let op := w.toNat % 256
  let arg := w.toNat / 256 % 16
  let rsv := w.toNat / 4096
  rsv ≠ 0 ∨ op ∉ [0x00, 0x01, 0x02, 0x03, 0x04, 0x10, 0x11, 0x12, 0x13] ∨ (arg ≠ 0 ∧ op ≠ 0x13) ∨
    (op = 0x13 ∧ (arg = 0 ∨ 8 < arg))

/-- The command whose completion CUR_OP names. -/
def IssuedOp.instr : IssuedOp → Instr
  | .begin => .begin
  | .frame => .frame
  | .sample => .sample
  | .mcut => .mcut
  | .index => .index
  | .lzw depth => .lzw depth

/-- The next step completes the command `op`, running already or written by the host now. -/
def Runs (op : IssuedOp) (s : State) : Prop :=
  (s.busy = true ∧ s.overtaken = false ∧ s.curOp = op) ∨
    (s.busy = false ∧ ∃ w rest, Arrives (commandWrite w) rest s ∧ decode w = .ok op.instr)

/-- The next step is a write of the command `i` that finds BUSY at 0. -/
def WrittenIdle (i : Instr) (s : State) : Prop :=
  s.busy = false ∧ ∃ w rest, Arrives (commandWrite w) rest s ∧ decode w = .ok i

/-- Squared Euclidean RGB distance over the integers (rule R142). -/
def squaredDistance (t u : Rgb) : Int :=
  ((t.r.toNat : Int) - u.r.toNat) ^ 2 + ((t.g.toNat : Int) - u.g.toNat) ^ 2 + ((t.b.toNat : Int) - u.b.toNat) ^ 2

/-- The place of a channel in the scan order R, G, B (rule R125). -/
def Channel.place : Channel → Nat
  | .red => 0
  | .green => 1
  | .blue => 2

/-- What holds of the state after error entry with code `k` from a state `s` (rule R236): the registers the rule
writes, everything it keeps, and the bounds rule R46 puts on the counts it leaves unspecified. -/
structure InError (k : ErrCode) (s t : State) : Prop where
  phase : t.phase = .error
  code : t.errCode = k
  frame : t.errFrame = s.framesDone
  output : t.outLen = 0
  busy : t.busy = false
  cancelReq : t.cancelReq = false
  smpCount : t.smpCount.toNat ≤ s.params.sampleBudget
  bktCount : t.bktCount.toNat ≤ 256
  idxLen : t.idxLen.toNat ≤ s.params.maxPixels
  bkt : t.bkt.length = t.bktCount.toNat
  kept : t =
    { s with
      phase := t.phase, errCode := t.errCode, errFrame := t.errFrame, outLen := t.outLen, busy := t.busy
      cancelReq := t.cancelReq, smp := t.smp, bkt := t.bkt, pal := t.pal, idx := t.idx, out := t.out
      smpCount := t.smpCount, bktCount := t.bktCount, idxLen := t.idxLen, stride := t.stride
      curOp := t.curOp, lzw := t.lzw, pack := t.pack, draws := t.draws }

/-! ### The invariants of the state -/

/-- The dimensions BEGIN accepts (rule R207). -/
abbrev GoodDimensions (s : State) : Prop :=
  2 ≤ s.width.toNat ∧ 2 ≤ s.height.toNat ∧ s.width.toNat % 2 = 0 ∧ s.height.toNat % 2 = 0 ∧
    s.width.toNat * s.height.toNat ≤ s.params.maxPixels

/-- Rule R46, items 2, 3, 4 (registers), 5 (registers) and 6, in every state between steps: while a command runs, the
phase is the one it was issued in (rule R24) and CANCEL_REQ belongs to a BEGIN or FRAME (rule R210). BKT holds its live
entries (log 12), within the range of rule R39. -/
structure CoreInv (s : State) : Prop where
  params : s.params.wf
  errClear : s.phase ≠ .error → s.errCode = .noError ∧ s.errFrame = 0
  errHeld : s.phase = .error → s.errCode ≠ .noError ∧ s.outLen = 0
  cancel : s.cancelReq = true → s.busy = true ∧ (s.curOp = .begin ∨ s.curOp = .frame)
  running : s.busy = true → s.phase = if s.curOp = .frame then .opened else .idle
  depth : ∀ d, s.busy = true → s.curOp = .lzw d → 1 ≤ d.toNat ∧ d.toNat ≤ 8
  idle : s.phase = .idle → s.framesDone = 0
  opened : s.phase = .opened →
    1 ≤ s.frameCount.toNat ∧ s.framesDone.toNat < s.frameCount.toNat ∧ GoodDimensions s
  done : s.phase = .done → s.framesDone = s.frameCount ∧ 1 ≤ s.frameCount.toNat
  outLen : s.outLen.toNat ≤ s.params.outCapacity
  smpCount : s.smpCount.toNat ≤ s.params.sampleBudget
  idxLen : s.idxLen.toNat ≤ s.params.maxPixels
  bktCount : s.bktCount.toNat ≤ 256
  bkt : s.bkt.length = s.bktCount.toNat
  bktRange : ∀ bk ∈ s.bkt, bk.start ≤ s.params.sampleBudget ∧ bk.len ≤ s.params.sampleBudget

/-- Every memory is in canonical form. -/
structure MemInv (s : State) : Prop where
  fb : s.fb.wf = true
  smp : s.smp.wf = true
  pal : s.pal.wf = true
  idx : s.idx.wf = true
  out : s.out.wf = true

/-- Rule R170: between two calls of PutCode at most 7 bits are pending and at most 254 bytes are in the buffer. -/
structure PackInv (p : PackRegs) : Prop where
  nb : p.nb ≤ 7
  acc : p.acc < 2 ^ p.nb
  bl : p.bl ≤ 254

/-- Rule R161, with the constants of rule R152: the encoder's registers before and after every pass of its loop. -/
structure EncInv (r : LzwRegs) : Prop where
  m : 2 ≤ r.m ∧ r.m ≤ 8
  clear : r.clear = 2 ^ r.m
  endCode : r.endCode = r.clear + 1
  next : r.endCode + 1 ≤ r.next ∧ r.next ≤ 4096
  w : r.m + 1 ≤ r.w ∧ r.w ≤ 12
  width : r.next ≤ 2 ^ r.w
  dict : ∀ e ∈ r.dict, r.endCode < e.code ∧ e.code < r.next
  pre : r.pre < r.next ∧ r.pre ≠ r.clear ∧ r.pre ≠ r.endCode

/-! ### The grammar of the container (rule R95) -/

/-- A 16-bit value, low byte first (rule R10). -/
def littleEndian (v : Half) : List Byte :=
  [BitVec.ofNat 8 (v.toNat % 256), BitVec.ofNat 8 (v.toNat / 256)]

/-- Header, ScreenDesc and LoopExt (rules R96, R97). -/
def gifHeader (w h : Half) : List Byte :=
  [0x47, 0x49, 0x46, 0x38, 0x39, 0x61] ++ littleEndian w ++ littleEndian h ++ [0x70, 0x00, 0x00] ++
    [0x21, 0xFF, 0x0B, 0x4E, 0x45, 0x54, 0x53, 0x43, 0x41, 0x50, 0x45, 0x32, 0x2E, 0x30, 0x03, 0x01, 0x00, 0x00, 0x00]

/-- GraphicCtl and ImageDesc (rules R98, R99). -/
def gifFrameHeader (w h d : Half) : List Byte :=
  [0x21, 0xF9, 0x04, 0x00] ++ littleEndian d ++ [0x00, 0x00] ++
    [0x2C, 0x00, 0x00, 0x00, 0x00] ++ littleEndian w ++ littleEndian h ++ [0x87]

/-- SubBlock: its length, 1 to 255, and its data bytes (rules R95, R101). -/
def gifSubBlock (data : List Byte) : List Byte := BitVec.ofNat 8 data.length :: data

/-- ImageData: MinCodeSize 8, sub-blocks of 1 to 255 bytes, all but the last of 255, and the terminator (rule
R101). -/
def IsImageData (bytes : List Byte) : Prop :=
  ∃ blocks : List (List Byte), (∀ b ∈ blocks, 1 ≤ b.length ∧ b.length ≤ 255) ∧
    (∀ b ∈ blocks.dropLast, b.length = 255) ∧
    bytes = 0x08 :: blocks.flatMap gifSubBlock ++ [0x00]

/-- FrameGroup (rule R95): a local table of 768 bytes (rule R100) between the two headers and the image data. -/
def IsFrameGroup (w h d : Half) (bytes : List Byte) : Prop :=
  ∃ table image : List Byte, table.length = 768 ∧ IsImageData image ∧
    bytes = gifFrameHeader w h d ++ table ++ image

/-- The header followed by `k` frame groups (rule R46, item 4). -/
def IsContainerPrefix (w h d : Half) (k : Nat) (bytes : List Byte) : Prop :=
  ∃ groups : List (List Byte), groups.length = k ∧ (∀ g ∈ groups, IsFrameGroup w h d g) ∧
    bytes = gifHeader w h ++ groups.flatten

/-- A complete container of `k` frames: the prefix and the trailer (rules R95, R102, R196). -/
def IsContainer (w h d : Half) (k : Nat) (bytes : List Byte) : Prop :=
  ∃ start, IsContainerPrefix w h d k start ∧ bytes = start ++ [0x3B]

/-- Rule R46, items 4 and 5: what OUT holds in the phases OPEN and DONE. -/
structure ContainerInv (s : State) : Prop where
  opened : s.phase = .opened → IsContainerPrefix s.width s.height s.delay s.framesDone.toNat s.output
  done : s.phase = .done → IsContainer s.width s.height s.delay s.framesDone.toNat s.output

end Sys2Proof.Machine
end

