-- ==== Sys2Proof/Safety/Reference.lean ====
section
/-! DEFINITION. What the bytes of an LZW stream and of a frame group are, without registers: the codes of rules R152
to R160, the bit string of rule R104, the sub-blocks of rule R176, a reader of the codes, and the frame group of rule
R190 as a function of the frame alone. Claims compare the machine with these. -/

namespace Sys2Proof.Reference

open Sys2Proof.Machine

/-- A code and the width it is written in. -/
abbrev Code := Nat × Nat

/-! ### The codes -/

/-- The codes after the first symbol, for minimum code size `m`: `pre` the code matched so far, `next` and `w` as in
rule R34, and the strings entered since the last clear code (rules R155 to R158). -/
def codesFrom (m : Nat) : List Byte → (pre next w : Nat) → List DictEntry → List Code
  | [], pre, _, w, _ => [(pre, w), (2 ^ m + 1, w)]
  | sym :: syms, pre, next, w, dict =>
    match dictFind pre sym dict with
    | some code => codesFrom m syms code next w dict
    | none =>
      if next < 4096 then
        (pre, w) :: codesFrom m syms sym.toNat (next + 1) (if next = 2 ^ w ∧ w < 12 then w + 1 else w)
          (⟨pre, sym, next⟩ :: dict)
      else (pre, w) :: (2 ^ m, w) :: codesFrom m syms sym.toNat (2 ^ m + 2) (m + 1) []

/-- All codes of a stream (rules R154, R158, R159). -/
def codes (m : Nat) : List Byte → List Code
  | [] => [(2 ^ m, m + 1), (2 ^ m + 1, m + 1)]
  | sym :: syms => (2 ^ m, m + 1) :: codesFrom m syms sym.toNat (2 ^ m + 2) (m + 1) []

/-! ### The bytes -/

/-- The bits of a code, bit 0 first (rule R104). -/
def codeBits (c : Code) : List Bool := (List.range c.2).map fun k => c.1.testBit k

/-- The number whose bit 0 is the first of the list. -/
def bitsValue : List Bool → Nat
  | [] => 0
  | b :: bs => b.toNat + 2 * bitsValue bs

/-- The bits as bytes, bit 0 of each byte first, zeros after the last bit (rules R65, R104, R174). -/
def packBits (bits : List Bool) : List Byte :=
  (List.range (ceilDiv bits.length 8)).map fun i => BitVec.ofNat 8 (bitsValue ((bits.drop (8 * i)).take 8))

/-- Sub-blocks of 255 bytes, the last one of what is left, and the terminator (rule R176). -/
def subBlocks (data : List Byte) : List Byte :=
  (List.range (ceilDiv data.length 255)).flatMap (fun i => gifSubBlock ((data.drop (255 * i)).take 255)) ++ [0x00]

/-- The bytes of an LZW stream (rules R150, R176). -/
def stream (depth : Nat) (symbols : List Byte) : List Byte :=
  BitVec.ofNat 8 (minCodeSize depth) :: subBlocks (packBits ((codes (minCodeSize depth) symbols).flatMap codeBits))

/-- The bound of rule R276 on the bytes of a stream of `n ≥ 1` symbols with depth 8. -/
def maxStreamLength (n : Nat) : Nat :=
  let b := ceilDiv (3 * (n + 2 + (n - 1) / 3839)) 2
  2 + b + ceilDiv b 255

/-! ### A reader of the codes -/

/-- The string a code stands for: a symbol, or the entry of the reader's table (whose first entry has code
`2^m + 2`). -/
def stringOf (m : Nat) (table : List (List Byte)) (code : Nat) : Option (List Byte) :=
  if code < 2 ^ m then some [BitVec.ofNat 8 code] else if code < 2 ^ m + 2 then none else table[code - (2 ^ m + 2)]?

/-- A reader as 95_test_vectors.md Appendix B gives it, on code numbers: it enters the previous string extended by the
first symbol of the present one, and reads a code it has not entered yet as the string about to be entered. -/
def readCodes (m : Nat) : List Nat → List (List Byte) → Option (List Byte) → Option (List Byte)
  | [], _, _ => none
  | code :: rest, table, previous =>
    if code = 2 ^ m then readCodes m rest [] none
    else if code = 2 ^ m + 1 then some []
    else
      match previous with
      | none => (stringOf m table code).bind fun now => (readCodes m rest table (some now)).map (now ++ ·)
      | some before =>
        let now? :=
          match stringOf m table code with
          | some now => some now
          | none => if code = 2 ^ m + 2 + table.length then some (before ++ before.take 1) else none
        now?.bind fun now =>
          let table' := if 2 ^ m + 2 + table.length < 4096 then table ++ [before ++ now.take 1] else table
          (readCodes m rest table' (some now)).map (now ++ ·)

/-! ### Median cut, with the guard of rule R130 -/

/-- The loop of rule R130 as it is written, for at most the given number of passes: `while BKT_COUNT < 256`, select,
sort and split. -/
def cutWhile : Nat → CutState → CutState
  | 0, cut => cut
  | passes + 1, cut =>
    if cut.buckets.length < 256 then
      match select cut with
      | none => cut
      | some best => cutWhile passes (splitBucket cut best)
    else cut

/-! ### The frame group as a function of the frame -/

/-- The pixels of the frame in FB, `WIDTH × HEIGHT` of them. -/
def framePixels (s : State) : List Rgb := (List.range (s.width.toNat * s.height.toNat)).map s.pixel

/-- Every `stride`-th pixel, from pixel 0 (rule R121). -/
def everyNth (stride : Nat) (pixels : List Rgb) : List Rgb :=
  (List.range (ceilDiv pixels.length stride)).filterMap fun j => pixels[j * stride]?

/-- The samples of a frame after MedianCut, and their buckets (rules R121, R130). -/
def frameCut (budget : Nat) (pixels : List Rgb) : CutState :=
  medianCutOf (everyNth (ceilDiv pixels.length budget) pixels)

/-- The palette of a frame (rules R128, R129). -/
def palette (budget : Nat) (pixels : List Rgb) : List Rgb := paletteOf (frameCut budget pixels)

/-- The indices of a frame (rule R141). -/
def indices (pal pixels : List Rgb) : List Byte := pixels.map fun px => BitVec.ofNat 8 (nearest pal px)

/-- The bytes FRAME appends for a frame (rules R190 to R194). -/
def frameGroup (w h d : Half) (budget : Nat) (pixels : List Rgb) : List Byte :=
  let pal := palette budget pixels
  gifFrameHeader w h d ++ pal.flatMap (fun c => [c.r, c.g, c.b]) ++ stream 8 (indices pal pixels)

/-- The bytes a successful FRAME appends: the frame group, and the trailer after the last frame (rules R190, R195,
R209). -/
def frameBytes (s : State) : List Byte :=
  frameGroup s.width s.height s.delay s.params.sampleBudget (framePixels s) ++
    if s.framesDone.toNat + 1 = s.frameCount.toNat then [0x3B] else []

end Sys2Proof.Reference
end

