-- ==== Sys2Proof/Certificates/Slice0/Obligations.lean ====
section
/-! DEFINITION. The statements about the machine. A frame is written as an equation: the next state is the state
before with the named fields replaced, so every field that is not named is unchanged. -/

open Sys2Proof Sys2Proof.Machine

/-! ### The command word -/

/-- Rule R108: the word of each mnemonic decodes to it. -/
def Obligations.CommandWordsDecode : Prop :=
  decode 0x00000000 = .ok .nop ∧ decode 0x00000001 = .ok .begin ∧ decode 0x00000002 = .ok .frame ∧
    decode 0x00000003 = .ok .cancel ∧ decode 0x00000004 = .ok .clear ∧ decode 0x00000010 = .ok .sample ∧
    decode 0x00000011 = .ok .mcut ∧ decode 0x00000012 = .ok .index ∧
    decode 0x00000113 = .ok (.lzw 1) ∧ decode 0x00000213 = .ok (.lzw 2) ∧ decode 0x00000813 = .ok (.lzw 8)

/-- Rules R90 to R93: a word is read as a command exactly when the command is well formed and the word is its
encoding. -/
def Obligations.DecodeInvertsEncode : Prop :=
  ∀ (w : Word) (i : Instr), decode w = .ok i ↔ i.wf = true ∧ encode i = w

/-- Rule R93: the malformed words are those no command decodes from, and writing one sets CMD_REJ and does nothing
else. -/
def Obligations.MalformedWordRejected : Prop :=
  ∀ w : Word, (Malformed w ↔ ∀ i, decode w ≠ .ok i) ∧
    (Malformed w → ∀ s rest, Arrives (commandWrite w) rest s →
      step s = .next { s with queue := rest, cmdRej := true })

/-! ### Steps -/

/-- Rule R205: when the host's next access is the write of a word that decodes to a command, the step is that
command; the word `withFetchWord` places is the one that runs. That the host's accesses wait in a queue is the model's choice
(notes/assumptions/3.md, 4.md). -/
def Obligations.StepRunsDecodedCommand : Prop :=
  (∀ (w : Word) (i : Instr) (s : State) (rest : List HostEvent),
    Arrives (commandWrite w) rest s → decode w = .ok i → step s = exec i { s with queue := rest }) ∧
  (∀ (s : State) (nbits w : Nat) (i : Instr),
    decodeTableWord nbits w = some i → step (s.withFetchWord nbits w) = exec i s)

/-- Rules R205, R215: a running command that the host does not overtake completes in the next step, and BUSY falls.
The step it completes in is the model's choice (notes/assumptions/3.md). -/
def Obligations.StepCompletesRunningCommand : Prop :=
  ∀ s : State, s.busy = true → s.overtaken = false →
    step s = .next (complete s) ∧ (complete s).busy = false

/-- Rule R261: with no command running and no access of the host, the core waits. -/
def Obligations.IdleCoreWaits : Prop :=
  ∀ s : State, s.busy = false → s.queue = [] → step s = .next s

/-- Rule R205: a legal command whose completion the host's next access overtakes is issued; BUSY rises, CUR_OP names
it, and nothing else changes. Which access overtakes is the model's choice (notes/assumptions/3.md). -/
def Obligations.OvertakenCommandIsIssued : Prop :=
  ∀ s : State, s.busy = false → s.overtaken = true →
    (s.phase = .idle → exec .begin s = .next { s with busy := true, curOp := .begin }) ∧
    (s.phase = .opened → exec .frame s = .next { s with busy := true, curOp := .frame }) ∧
    (s.phase = .idle → exec .sample s = .next { s with busy := true, curOp := .sample }) ∧
    (s.phase = .idle → exec .mcut s = .next { s with busy := true, curOp := .mcut }) ∧
    (s.phase = .idle → exec .index s = .next { s with busy := true, curOp := .index }) ∧
    (∀ d : BitVec 4, 1 ≤ d.toNat → d.toNat ≤ 8 → s.phase = .idle →
      exec (.lzw d) s = .next { s with busy := true, curOp := .lzw d })

/-- Rules R71, R205: a command that completes at once has the effect of its completion from the state of its issue, and
nothing an access but CANCEL and reset changes while it runs (the queue, CMD_REJ, the last read, the count of free
values) has an influence on that completion: the two results differ in these, in the working registers and, after an
error, in what error entry leaves unspecified. The step it completes in is the model's choice (notes/assumptions/3.md),
and so are the fields of the model's own (10.md). -/
def Obligations.LateCompletionHasSameEffect : Prop :=
  (∀ (op : IssuedOp) (s : State), op.instr.wf = true → Ready (if op = .frame then .opened else .idle) s →
    exec op.instr s = .next (complete { s with busy := true, curOp := op })) ∧
  (∀ (s : State) (queue : List HostEvent) (rej : Bool) (data : ReadData) (draws : Nat),
    let t := complete s
    let t' := complete { s with queue := queue, cmdRej := rej, rdata := data, draws := draws }
    (t.phase ≠ .error →
      t' = { t with
             queue := queue, cmdRej := rej, rdata := data
             curOp := t'.curOp, lzw := t'.lzw, pack := t'.pack, draws := t'.draws }) ∧
    (t.phase = .error →
      t' = { t with
             queue := queue, cmdRej := rej, rdata := data
             smp := t'.smp, bkt := t'.bkt, pal := t'.pal, idx := t'.idx, out := t'.out
             smpCount := t'.smpCount, bktCount := t'.bktCount, idxLen := t'.idxLen, stride := t'.stride
             curOp := t'.curOp, lzw := t'.lzw, pack := t'.pack, draws := t'.draws }))

/-- Rule R71: while BUSY is 1 an access of the host changes at most CANCEL_REQ and CMD_REJ: CANCEL is recorded for
BEGIN and FRAME, every other CMD write is rejected, all else is dropped, and STATUS can be read. -/
def Obligations.BusyCoreKeepsItsState : Prop :=
  ∀ (s t : State) (access : HostAccess) (rest : List HostEvent),
    s.busy = true → Arrives access rest s → access ≠ .reset → step s = .next t →
    t = { s with
          queue := rest, cancelReq := t.cancelReq, cmdRej := t.cmdRej, rdata := t.rdata, draws := t.draws } ∧
    (∀ w, access = commandWrite w → decode w = .ok .cancel →
      t.cmdRej = s.cmdRej ∧
        (t.cancelReq = true ↔ s.cancelReq = true ∨ s.curOp = .begin ∨ s.curOp = .frame)) ∧
    (∀ w, access = commandWrite w → decode w ≠ .ok .cancel →
      t.cmdRej = true ∧ t.cancelReq = s.cancelReq) ∧
    ((∀ w, access ≠ commandWrite w) → t.cmdRej = s.cmdRej ∧ t.cancelReq = s.cancelReq) ∧
    (access = .readCsr 0x04 4 → t.rdata = .word s.statusWord)

/-- Rules R94, R212: a well-formed command that is not legal sets CMD_REJ and changes nothing else; a legal one runs
and does not set CMD_REJ; CANCEL outside phase OPEN, and NOP, have no effect. -/
def Obligations.CommandAcceptedOrRejected : Prop :=
  ∀ (i : Instr) (s : State), i.wf = true →
    (¬ Legal i s → exec i s = .next { s with cmdRej := true }) ∧
    (Legal i s → ∃ t, exec i s = .next t ∧ (t.cmdRej = true → s.cmdRej = true)) ∧
    (s.busy = false → s.phase ≠ .opened → exec .cancel s = .next s) ∧
    (s.busy = false → exec .nop s = .next s)

/-- Rules R23, R212, R250: only CLEAR and reset take CMD_REJ back to 0. -/
def Obligations.RejectionIsSticky : Prop :=
  ∀ s t : State, s.cmdRej = true → step s = .next t →
    t.cmdRej = true ∨ WrittenIdle .clear s ∨ ∃ rest, Arrives .reset rest s

/-! ### Reset -/

/-- Rule R47: every register reads 0, the phase is IDLE, nothing runs, every byte of a memory is unspecified, and the
core waits. That an unspecified byte is a free value is notes/assumptions/6.md, that a core with nothing to do steps to
itself is notes/assumptions/4.md; both are the model's choices. -/
def Obligations.ResetValues : Prop :=
  (∀ c : Csr, State.reset.csrValue c = 0) ∧ State.reset.phase = .idle ∧ State.reset.busy = false ∧
    State.reset.errCode = .noError ∧ State.reset.cancelReq = false ∧ State.reset.cmdRej = false ∧
    (∀ (sp : Space) (a : Nat), State.reset.byte sp a = Config.freeByte sp 0 a) ∧
    step State.reset = .next State.reset

/-- Rule R260: hardware reset works in every state, while busy too: every register reads 0, every memory is
unspecified, the running command is abandoned. That reset is one of the host's accesses is the model's choice
(notes/assumptions/19.md), and so is that an unspecified memory reads as new free bytes (notes/assumptions/6.md). -/
def Obligations.HardwareResetFromAnyState : Prop :=
  ∀ (s : State) (rest : List HostEvent), Arrives .reset rest s →
    ∃ t, step s = .next t ∧ (∀ c : Csr, t.csrValue c = 0) ∧ t.phase = .idle ∧ t.busy = false ∧
      (∀ (sp : Space) (a : Nat), t.byte sp a = Config.freeByte sp ((s.mem sp).epoch + 1) a)

/-- Rule R46 holds at reset; so does the canonical form of the memories, which is the model's own representation
(notes/assumptions/23.md). -/
def Obligations.ResetMeetsInvariants : Prop :=
  CoreInv State.reset ∧ MemInv State.reset ∧ ContainerInv State.reset

/-! ### Invariants -/

/-- Rule R46 for the registers, rule R24 while a command runs, and rule R39 for the live entries of BKT, which are all the
model holds (notes/assumptions/12.md): every step keeps them. -/
def Obligations.StepKeepsCoreInvariant : Prop :=
  ∀ s t : State, CoreInv s → step s = .next t → CoreInv t

/-- Rule R46, items 4 and 5: in phase OPEN the output is the header and one frame group per frame done, in phase DONE
it is a complete container, and every step keeps this. -/
def Obligations.StepKeepsContainer : Prop :=
  ∀ s t : State, CoreInv s → ContainerInv s → step s = .next t → ContainerInv t

/-- Every step keeps the canonical form of every memory. The form is the model's own representation, of which the spec
says nothing (notes/assumptions/23.md). -/
def Obligations.StepKeepsMemoryCanonical : Prop :=
  ∀ s t : State, MemInv s → step s = .next t → MemInv t

/-- Rule R20: no step changes the implementation parameters. -/
def Obligations.StepKeepsParameters : Prop :=
  ∀ s t : State, step s = .next t → t.params = s.params

/-! ### The host's accesses -/

/-- Rule R31 (and R32, R271): what a write to each offset of the CSR space other than CMD does; the bits above a
register's field read as 0. -/
def Obligations.CsrWriteRules : Prop :=
  (∀ (s : State) (rest : List HostEvent) (offset : Nat) (v : Word),
    Arrives (.writeCsr offset 4 v) rest s → offset % 4 = 0 → offset ≠ 0x00 →
    let u : State := { s with queue := rest }
    let field : Half := v.setWidth 16
    step s = .next (
      if s.busy = true then u
      else if offset = 0x20 then { u with frameW := field }
      else if offset = 0x24 then { u with frameH := field }
      else if s.phase ≠ .idle then u
      else if offset = 0x10 then { u with width := field }
      else if offset = 0x14 then { u with height := field }
      else if offset = 0x18 then { u with delay := field }
      else if offset = 0x1C then { u with frameCount := field }
      else if offset = 0x30 then if v.toNat ≤ s.params.sampleBudget then { u with smpCount := v } else u
      else if offset = 0x38 then if v.toNat ≤ s.params.maxPixels then { u with idxLen := v } else u
      else u)) ∧
  (∀ s : State,
    (∀ c : Csr, c = .errFrame ∨ c = .width ∨ c = .height ∨ c = .delay ∨ c = .frameCount ∨ c = .frameW ∨ c = .frameH ∨
      c = .framesDone → (s.csrValue c).toNat < 2 ^ 16) ∧
    (s.csrValue .errCode).toNat < 2 ^ 4 ∧ (s.csrValue .bktCount).toNat < 2 ^ 9)

/-- Rules R21, R32: while BUSY is 0 a read of each offset returns the register's field, 0 in every other bit, and 0
at the reserved offsets. -/
def Obligations.CsrReadReturnsRegister : Prop :=
  ∀ (s : State) (rest : List HostEvent) (offset value : Nat),
    Arrives (.readCsr offset 4) rest s → s.busy = false →
    ((offset, value) ∈ [(0x00, 0), (0x04, s.statusWord.toNat), (0x08, s.errCode.code.toNat),
        (0x0C, s.errFrame.toNat), (0x10, s.width.toNat), (0x14, s.height.toNat), (0x18, s.delay.toNat),
        (0x1C, s.frameCount.toNat), (0x20, s.frameW.toNat), (0x24, s.frameH.toNat), (0x28, s.framesDone.toNat),
        (0x2C, s.outLen.toNat), (0x30, s.smpCount.toNat), (0x34, s.bktCount.toNat), (0x38, s.idxLen.toNat),
        (0x3C, s.stride.toNat)] ∨ (0x40 ≤ offset ∧ offset % 4 = 0 ∧ value = 0)) →
    step s = .next { s with queue := rest, rdata := .word (BitVec.ofNat 32 value) }

/-- Rules R21, R23, R24: STATUS holds BUSY, DONE, ERR, CANCEL_REQ, CMD_REJ in bits 0 to 4, PH in bits 9:8, and 0
elsewhere. -/
def Obligations.StatusWordFields : Prop :=
  ∀ s : State,
    s.statusWord.toNat =
      (if s.busy = true then 1 else 0) + (if s.phase = .done then 2 else 0) + (if s.phase = .error then 4 else 0) +
        (if s.cancelReq = true then 8 else 0) + (if s.cmdRej = true then 16 else 0) +
        256 * (match s.phase with | .idle => 0 | .opened => 1 | .done => 2 | .error => 3)

/-- Rules R60, R61, R67: while BUSY is 0 a host write stores its bytes at consecutive offsets of FB, SMP, PAL or IDX;
a byte beyond the space, and every byte written to OUT, has no effect. That a wide access is taken byte by byte is
notes/assumptions/20.md. -/
def Obligations.HostWriteStoresItsBytes : Prop :=
  ∀ (s : State) (rest : List HostEvent) (sp : Space) (a : Nat) (bs : List Byte),
    Arrives (.store sp a bs) rest s → s.busy = false →
    (spaceSize s.params .fb = 4 * s.params.maxPixels ∧ spaceSize s.params .smp = 3 * s.params.sampleBudget ∧
      spaceSize s.params .pal = 768 ∧ spaceSize s.params .idx = s.params.maxPixels) ∧
    ∃ t, step s = .next t ∧
      t = { s with queue := rest, fb := t.fb, smp := t.smp, pal := t.pal, idx := t.idx } ∧
      ∀ (sp' : Space) (x : Nat), t.byte sp' x =
        if sp' = sp ∧ sp ≠ .out ∧ a ≤ x ∧ x < a + bs.length ∧ x < spaceSize s.params sp
        then bs[x - a]?.getD 0 else s.byte sp' x

/-- Rules R43, R61, R68: a host read changes no state of the core, and while BUSY is 0 it returns the bytes of the
space (in OUT, those below OUT_LEN). -/
def Obligations.HostReadReturnsBytes : Prop :=
  (∀ (s : State) (rest : List HostEvent) (offset : Nat), offset % 4 = 0 → Arrives (.readCsr offset 4) rest s →
    ∃ t, step s = .next t ∧ t = { s with queue := rest, rdata := t.rdata, draws := t.draws }) ∧
  (∀ (s : State) (rest : List HostEvent) (sp : Space) (a n : Nat), Arrives (.load sp a n) rest s →
    ∃ t bytes, step s = .next t ∧ t = { s with queue := rest, rdata := t.rdata, draws := t.draws } ∧
      t.rdata = .bytes bytes ∧ bytes.length = n ∧
      (s.busy = false → ∀ k, k < n → a + k < spaceSize s.params sp → (sp = .out → a + k < s.outLen.toNat) →
        bytes[k]? = some (s.byte sp (a + k))))

/-- Rule R62: a CSR access that is not 32 bits wide or not aligned to 4 bytes is refused by name. The refusal is the
model's choice (notes/assumptions/18.md). -/
def Obligations.UndefinedCsrAccessRefused : Prop :=
  ∀ (s : State) (rest : List HostEvent) (offset size : Nat) (v : Word), size ≠ 4 ∨ offset % 4 ≠ 0 →
    (Arrives (.writeCsr offset size v) rest s → step s = .refused (.undefinedCsrAccess offset size)) ∧
    (Arrives (.readCsr offset size) rest s → step s = .refused (.undefinedCsrAccess offset size))

/-! ### The sequencer -/

/-- Rule R206: NOP changes nothing, not even CMD_REJ; while BUSY is 1 it is rejected. -/
def Obligations.NopChangesNothing : Prop :=
  ∀ s : State, (s.busy = false → exec .nop s = .next s) ∧
    (s.busy = true → exec .nop s = .next { s with cmdRej := true })

/-- Rule R211: CLEAR enters IDLE, zeroes ERR_CODE, ERR_FRAME, FRAMES_DONE, OUT_LEN, CANCEL_REQ and CMD_REJ, and
changes no other register and no memory but OUT. -/
def Obligations.ClearReturnsToIdle : Prop :=
  ∀ s : State, s.busy = false → ∃ t, exec .clear s = .next t ∧ t.statusWord = 0 ∧
    t = { s with
          phase := .idle, errCode := .noError, errFrame := 0, framesDone := 0, outLen := 0
          cancelReq := false, cmdRej := false, out := t.out }

/-- Rule R210: the four rows of CANCEL. -/
def Obligations.CancelByState : Prop :=
  ∀ s : State,
    (s.busy = false → s.phase = .opened → ∃ t, exec .cancel s = .next t ∧ InError .cancelled s t) ∧
    (s.busy = true → s.curOp = .begin ∨ s.curOp = .frame → exec .cancel s = .next { s with cancelReq := true }) ∧
    (s.busy = true → s.curOp ≠ .begin → s.curOp ≠ .frame → exec .cancel s = .next s) ∧
    (s.busy = false → s.phase ≠ .opened → exec .cancel s = .next s)

/-- Rule R236: what error entry writes, what it keeps (FB, the configuration, FRAMES_DONE and CMD_REJ among it), and
the bounds on the counts it leaves unspecified. The bounds are those of rule R46; that the counts after an error meet
them, and that BKT has as many live entries as BKT_COUNT says, is the model's choice (notes/assumptions/7.md, 12.md). -/
def Obligations.ErrorEntryState : Prop :=
  ∀ (k : ErrCode) (s : State), InError k s (errorEntry k s)

/-- Rules R186, R207: BEGIN with at least one frame and good dimensions opens the conversion: OUT holds the 32 bytes
of the header, FRAMES_DONE is 0. -/
def Obligations.BeginOpensConversion : Prop :=
  ∀ s : State, Ready .idle s → s.cancelReq = false → s.params.wf → s.frameCount ≠ 0 → GoodDimensions s →
    ∃ t, exec .begin s = .next t ∧ t.output = gifHeader s.width s.height ∧
      t = { s with
            phase := .opened, framesDone := 0, outLen := 32, out := t.out
            curOp := t.curOp, lzw := t.lzw, pack := t.pack, draws := t.draws }

/-- Rules R207, R232, R237: BEGIN raises EmptyInput when no frame is announced, whatever the dimensions, and
otherwise BadDimension when a dimension is zero or odd or the frame does not fit FB. That FRAMES_DONE is 0 by then is
read from the order of the lines of rule R207 (notes/assumptions/16.md). -/
def Obligations.BeginReportsFirstError : Prop :=
  ∀ s : State, Ready .idle s →
    (s.frameCount = 0 →
      ∃ t, exec .begin s = .next t ∧ InError .emptyInput { s with framesDone := 0 } t) ∧
    (s.frameCount ≠ 0 → ¬ GoodDimensions s →
      ∃ t, exec .begin s = .next t ∧ InError .badDimension { s with framesDone := 0 } t)

/-- Rules R207, R208, R210, R235, R239: a recorded CANCEL ends a BEGIN or a FRAME at its completion, after its own
errors, with FRAMES_DONE as it was. A last FRAME whose frame group fits OUT and whose trailer does not is Cancelled: so
the model reads rules R208 and R239 (notes/assumptions/27.md). -/
def Obligations.CancelRequestActsAtCompletion : Prop :=
  ∀ s : State, CoreInv s → s.cancelReq = true →
    (Completing .begin s →
      ∃ t, step s = .next t ∧
        InError (if s.frameCount = 0 then .emptyInput else if GoodDimensions s then .cancelled else .badDimension) s t) ∧
    (Completing .frame s → (s.frameW ≠ s.width ∨ s.frameH ≠ s.height) →
      ∃ t, step s = .next t ∧ InError .dimensionMismatch s t) ∧
    (Completing .frame s → s.frameW = s.width → s.frameH = s.height →
      s.outLen.toNat + (Reference.frameGroup s.width s.height s.delay s.params.sampleBudget
        (Reference.framePixels s)).length ≤ s.params.outCapacity →
      ∃ t, step s = .next t ∧ InError .cancelled s t) ∧
    (Completing .frame s → s.frameW = s.width → s.frameH = s.height →
      s.params.outCapacity < s.outLen.toNat + (Reference.frameGroup s.width s.height s.delay s.params.sampleBudget
        (Reference.framePixels s)).length →
      ∃ t, step s = .next t ∧ InError .outOverflow s t)

/-- Rule R233: FRAME refuses a frame whose dimensions differ from WIDTH and HEIGHT, the first included. -/
def Obligations.FrameDimensionMismatch : Prop :=
  ∀ s : State, Ready .opened s → s.frameW ≠ s.width ∨ s.frameH ≠ s.height →
    ∃ t, exec .frame s = .next t ∧ InError .dimensionMismatch s t

/-- Rules R208, R209: FRAME on a frame of the established dimensions with room in OUT appends exactly its frame
group (and the trailer after the last frame), counts the frame, leaves the frame's samples, buckets, palette and
indices in SMP, BKT, PAL and IDX with their counts, and changes nothing else. -/
def Obligations.FrameAppendsItsGroup : Prop :=
  ∀ s : State, CoreInv s → Ready .opened s → s.frameW = s.width → s.frameH = s.height →
    s.outLen.toNat + (Reference.frameBytes s).length ≤ s.params.outCapacity →
    let n := s.width.toNat * s.height.toNat
    let stride := ceilDiv n s.params.sampleBudget
    let cut := Reference.frameCut s.params.sampleBudget (Reference.framePixels s)
    let pal := Reference.palette s.params.sampleBudget (Reference.framePixels s)
    ∃ t, exec .frame s = .next t ∧
      t.output = s.output ++ Reference.frameBytes s ∧
      t.outLen.toNat = s.outLen.toNat + (Reference.frameBytes s).length ∧
      t.framesDone.toNat = s.framesDone.toNat + 1 ∧
      t.phase = (if s.framesDone.toNat + 1 = s.frameCount.toNat then .done else .opened) ∧
      t.stride.toNat = stride ∧ t.smpCount.toNat = ceilDiv n stride ∧
      t.samples = cut.samples ∧ t.bkt = cut.buckets ∧ t.bktCount.toNat = cut.buckets.length ∧
      t.palette = pal ∧ t.idxLen.toNat = n ∧
      t.symbols n = Reference.indices pal (Reference.framePixels s) ∧
      (∀ x, n ≤ x → t.byte .idx x = s.byte .idx x) ∧
      (∀ x, 3 * t.smpCount.toNat ≤ x → t.byte .smp x = s.byte .smp x) ∧
      (∀ x, 768 ≤ x → t.byte .pal x = s.byte .pal x) ∧
      (∀ x, t.outLen.toNat ≤ x → t.byte .out x = s.byte .out x) ∧
      t = { s with
            outLen := t.outLen, out := t.out, framesDone := t.framesDone, phase := t.phase
            smp := t.smp, smpCount := t.smpCount, stride := t.stride, bkt := t.bkt, bktCount := t.bktCount
            pal := t.pal, idx := t.idx, idxLen := t.idxLen
            curOp := t.curOp, lzw := t.lzw, pack := t.pack, draws := t.draws }

/-- Rule R238: FRAME raises OutOverflow when its bytes do not fit OUT. -/
def Obligations.FrameOverflowsWithoutRoom : Prop :=
  ∀ s : State, CoreInv s → Ready .opened s → s.frameW = s.width → s.frameH = s.height →
    s.params.outCapacity < s.outLen.toNat + (Reference.frameBytes s).length →
    ∃ t, exec .frame s = .next t ∧ InError .outOverflow s t

/-- Rules R238, R276: a host rules OutOverflow out by leaving room for the largest frame group and the trailer. -/
def Obligations.FrameWithRoomSucceeds : Prop :=
  ∀ s : State, CoreInv s → Ready .opened s → s.frameW = s.width → s.frameH = s.height →
    s.outLen.toNat + 786 + Reference.maxStreamLength (s.width.toNat * s.height.toNat) + 1 ≤ s.params.outCapacity →
    ∃ t, exec .frame s = .next t ∧ t.phase ≠ .error ∧ t.framesDone.toNat = s.framesDone.toNat + 1

/-- Rules R40, R48, R72: the output of FRAME depends on the red, green and blue bytes of the frame, on the registers
of the conversion and on the output so far, not on alpha bytes, SMP, PAL, IDX or anything an earlier command left. -/
def Obligations.FrameDependsOnItsPixelsOnly : Prop :=
  ∀ s s' t t' : State, CoreInv s → CoreInv s' → Ready .opened s → Ready .opened s' →
    s'.params = s.params → s'.width = s.width → s'.height = s.height → s'.delay = s.delay →
    s'.frameW = s.frameW → s'.frameH = s.frameH → s'.frameCount = s.frameCount → s'.framesDone = s.framesDone →
    s'.output = s.output →
    (∀ p, p < s.width.toNat * s.height.toNat → s'.pixel p = s.pixel p) →
    exec .frame s = .next t → exec .frame s' = .next t' →
    t'.output = t.output ∧ t'.phase = t.phase ∧ t'.errCode = t.errCode ∧ t'.framesDone = t.framesDone

/-- Rule R213: these are all the changes of the phase there are. -/
def Obligations.PhaseTransitions : Prop :=
  ∀ s t : State, CoreInv s → step s = .next t → t.phase ≠ s.phase →
    (s.phase = .idle ∧ t.phase = .opened ∧ Runs .begin s) ∨
    (s.phase = .idle ∧ t.phase = .error ∧
      (Runs .begin s ∨ Runs .sample s ∨ Runs .index s ∨ ∃ d, Runs (.lzw d) s)) ∨
    (s.phase = .opened ∧ t.phase = .done ∧ Runs .frame s ∧ t.framesDone = t.frameCount) ∨
    (s.phase = .opened ∧ t.phase = .error ∧ (Runs .frame s ∨ WrittenIdle .cancel s)) ∨
    (t.phase = .idle ∧ (WrittenIdle .clear s ∨ ∃ rest, Arrives .reset rest s))

/-- Rules R28, R214: within a conversion FRAMES_DONE never falls, grows by at most 1, and equals FRAME_COUNT exactly
in phase DONE. -/
def Obligations.ProgressNeverFalls : Prop :=
  ∀ s t : State, CoreInv s → step s = .next t → s.phase = .opened → t.phase ≠ .idle →
    s.framesDone.toNat ≤ t.framesDone.toNat ∧ t.framesDone.toNat ≤ s.framesDone.toNat + 1 ∧
      t.frameCount = s.frameCount ∧ (t.phase = .done ↔ t.framesDone = t.frameCount)

/-! ### Quantizer -/

/-- Rules R121, R122: SAMPLE takes every stride-th pixel from pixel 0 with the smallest stride that keeps the count
within SAMPLE_BUDGET; an empty frame gives no sample and stride 1. -/
def Obligations.SampleTakesEveryStridethPixel : Prop :=
  ∀ s : State, CoreInv s → Ready .idle s →
    let n := s.frameW.toNat * s.frameH.toNat
    n ≤ s.params.maxPixels →
    ∃ t, exec .sample s = .next t ∧
      (n = 0 → t.stride = 1 ∧ t.smpCount = 0) ∧
      (0 < n → t.stride.toNat = ceilDiv n s.params.sampleBudget ∧
        t.smpCount.toNat = ceilDiv n t.stride.toNat ∧
        1 ≤ t.smpCount.toNat ∧ t.smpCount.toNat ≤ s.params.sampleBudget ∧
        ∀ j, j < t.smpCount.toNat → j * t.stride.toNat < n ∧ t.sampleAt j = s.pixel (j * t.stride.toNat)) ∧
      (∀ x, 3 * t.smpCount.toNat ≤ x → t.byte .smp x = s.byte .smp x) ∧
      t = { s with
            smp := t.smp, smpCount := t.smpCount, stride := t.stride
            curOp := t.curOp, lzw := t.lzw, pack := t.pack, draws := t.draws }

/-- Rules R122, R144, R237: SAMPLE and INDEX raise BadDimension when the frame does not fit FB. -/
def Obligations.UnitCommandsRefuseLargeFrames : Prop :=
  ∀ s : State, Ready .idle s → s.params.maxPixels < s.frameW.toNat * s.frameH.toNat →
    (∃ t, exec .sample s = .next t ∧ InError .badDimension s t) ∧
    (∃ t, exec .index s = .next t ∧ InError .badDimension s t)

/-- Rule R124: the range of a channel is the largest value minus the smallest among the members. -/
def Obligations.ChannelRangeIsMaxMinusMin : Prop :=
  ∀ (cs : List Rgb) (c : Channel), cs ≠ [] →
    ∃ hi ∈ cs, ∃ lo ∈ cs, (∀ t ∈ cs, (lo.chan c).toNat ≤ (t.chan c).toNat ∧ (t.chan c).toNat ≤ (hi.chan c).toNat) ∧
      chanRange cs c = (hi.chan c).toNat - (lo.chan c).toNat

/-- Rule R125: Select takes the largest range, at least 1, over the buckets of two or more members; among equal ones
the lowest bucket and within it red before green before blue; and none only when every such range is 0. -/
def Obligations.SelectTakesFirstLargestRange : Prop :=
  ∀ cut : CutState,
    (select cut = none →
      ∀ (b : Nat) (bk : Bucket) (c : Channel), cut.buckets[b]? = some bk → 2 ≤ bk.len →
        chanRange (bucketMembers cut.samples bk) c = 0) ∧
    (∀ best, select cut = some best →
      (∃ bk, cut.buckets[best.bucket]? = some bk ∧ 2 ≤ bk.len ∧
        best.range = chanRange (bucketMembers cut.samples bk) best.channel ∧ 1 ≤ best.range) ∧
      ∀ (b : Nat) (bk : Bucket) (c : Channel), cut.buckets[b]? = some bk → 2 ≤ bk.len →
        chanRange (bucketMembers cut.samples bk) c < best.range ∨
        (chanRange (bucketMembers cut.samples bk) c = best.range ∧
          (best.bucket < b ∨ (best.bucket = b ∧ best.channel.place ≤ c.place))))

/-- Rule R126: the sort of a bucket is ascending and stable, and samples outside the bucket do not move. -/
def Obligations.SortIsStable : Prop :=
  ∀ (samples : List Rgb) (bk : Bucket) (c : Channel), bk.start + bk.len ≤ samples.length →
    let before := bucketMembers samples bk
    let after := bucketMembers (sortBucket samples bk c) bk
    after.Perm before ∧
    after.Pairwise (fun t u => (t.chan c).toNat ≤ (u.chan c).toNat) ∧
    (∀ v : Byte, after.filter (fun t => t.chan c == v) = before.filter (fun t => t.chan c == v)) ∧
    (∀ j, j < bk.start ∨ bk.start + bk.len ≤ j → (sortBucket samples bk c)[j]? = samples[j]?)

/-- Rule R127: the selected bucket is sorted by the selected channel, and no other sample moves; it keeps its number with
the lower half, the upper half is the new last bucket, both have a member, and no other bucket changes. -/
def Obligations.SplitAtMedian : Prop :=
  ∀ (cut : CutState) (best : Candidate) (bk : Bucket),
    cut.buckets[best.bucket]? = some bk → 2 ≤ bk.len →
    let after := (splitBucket cut best).buckets
    let mid := bk.len / 2
    (splitBucket cut best).samples = sortBucket cut.samples bk best.channel ∧
    after.length = cut.buckets.length + 1 ∧
    after[best.bucket]? = some ⟨bk.start, mid⟩ ∧
    after[cut.buckets.length]? = some ⟨bk.start + mid, bk.len - mid⟩ ∧
    1 ≤ mid ∧ 1 ≤ bk.len - mid ∧
    (∀ b, b < cut.buckets.length → b ≠ best.bucket → after[b]? = cut.buckets[b]?)

/-- Rules R123, R125, R130: MedianCut starts from one bucket of all samples (none without samples); a pass ends the loop
when Select finds nothing and otherwise splits what Select found; and the loop of at most 255 passes is the loop of rule
R130 with its guard, for any number of passes from 255 up. -/
def Obligations.MedianCutRepeatsSelectAndSplit : Prop :=
  (∀ samples : List Rgb,
    initialCut samples = ⟨samples, if samples = [] then [] else [⟨0, samples.length⟩]⟩) ∧
  (∀ (passes : Nat) (cut : CutState), select cut = none → cutLoop (passes + 1) cut = cut) ∧
  (∀ (passes : Nat) (cut : CutState) (best : Candidate), select cut = some best →
    cutLoop (passes + 1) cut = cutLoop passes (splitBucket cut best)) ∧
  (∀ (samples : List Rgb) (passes : Nat), 255 ≤ passes →
    Reference.cutWhile passes (initialCut samples) = medianCutOf samples)

/-- Rules R128, R133: a palette channel is the mean of the members' values rounded to the nearest integer, one half
up, and lies between the smallest and the largest of them. -/
def Obligations.MeanRoundsHalfUp : Prop :=
  ∀ (cs : List Rgb) (c : Channel), cs ≠ [] →
    let mean := ((meanColour cs).chan c).toNat
    let sum := (cs.map fun t => (t.chan c).toNat).sum
    2 * cs.length * mean ≤ 2 * sum + cs.length ∧ 2 * sum + cs.length < 2 * cs.length * (mean + 1) ∧
    (∃ t ∈ cs, (t.chan c).toNat ≤ mean) ∧ (∃ t ∈ cs, mean ≤ (t.chan c).toNat)

/-- Rules R123, R129, R130, R131: MCUT reorders the samples without changing the multiset, cuts them into at most 256
non-empty buckets that cover each sample exactly once, stops only at 256 buckets or when no bucket can be split, and
writes the mean of each bucket and then black to PAL. -/
def Obligations.McutBuildsThePalette : Prop :=
  ∀ s : State, CoreInv s → Ready .idle s →
    ∃ t, exec .mcut s = .next t ∧
      t.samples = (medianCutOf s.samples).samples ∧ t.bkt = (medianCutOf s.samples).buckets ∧
      t.samples.Perm s.samples ∧
      t.bktCount.toNat = t.bkt.length ∧ t.bkt.length ≤ 256 ∧
      (∀ bk ∈ t.bkt, 1 ≤ bk.len ∧ bk.start + bk.len ≤ s.smpCount.toNat) ∧
      (∀ j, j < s.smpCount.toNat →
        ∃ b : Nat, (∃ bk : Bucket, t.bkt[b]? = some bk ∧ bk.start ≤ j ∧ j < bk.start + bk.len) ∧
          ∀ (b' : Nat) (bk' : Bucket), t.bkt[b']? = some bk' → bk'.start ≤ j → j < bk'.start + bk'.len → b' = b) ∧
      (t.bkt.length = 256 ∨
        ∀ bk ∈ t.bkt, bk.len < 2 ∨ ∀ c, chanRange (bucketMembers t.samples bk) c = 0) ∧
      (∀ (b : Nat) (bk : Bucket), t.bkt[b]? = some bk → t.palAt b = meanColour (bucketMembers t.samples bk)) ∧
      (∀ b, t.bkt.length ≤ b → b < 256 → t.palAt b = ⟨0, 0, 0⟩) ∧
      (∀ x, 3 * s.smpCount.toNat ≤ x → t.byte .smp x = s.byte .smp x) ∧
      (∀ x, 768 ≤ x → t.byte .pal x = s.byte .pal x) ∧
      t = { s with
            smp := t.smp, bkt := t.bkt, bktCount := t.bktCount, pal := t.pal
            curOp := t.curOp, lzw := t.lzw, pack := t.pack, draws := t.draws }

/-- Rule R132: no samples give an all-black palette and no bucket; samples all of one colour give one bucket, that
colour exactly in entry 0 and black elsewhere. -/
def Obligations.DegenerateSampleSets : Prop :=
  ∀ s : State, CoreInv s → Ready .idle s →
    (s.smpCount = 0 →
      ∃ t, exec .mcut s = .next t ∧ t.bktCount = 0 ∧ ∀ b, b < 256 → t.palAt b = ⟨0, 0, 0⟩) ∧
    (∀ colour : Rgb, s.smpCount ≠ 0 → (∀ j, j < s.smpCount.toNat → s.sampleAt j = colour) →
      ∃ t, exec .mcut s = .next t ∧ t.bktCount = 1 ∧ t.palAt 0 = colour ∧
        ∀ b, 1 ≤ b → b < 256 → t.palAt b = ⟨0, 0, 0⟩)

/-! ### Indexer -/

/-- Rules R141, R142, R143, R144: INDEX gives each pixel the entry at the smallest squared distance, the lowest of
equal ones, over all 256 entries. -/
def Obligations.IndexTakesNearestEntry : Prop :=
  ∀ s : State, CoreInv s → Ready .idle s →
    let n := s.frameW.toNat * s.frameH.toNat
    n ≤ s.params.maxPixels →
    ∃ t, exec .index s = .next t ∧ t.idxLen.toNat = n ∧
      (∀ p, p < n →
        let best := (t.byte .idx p).toNat
        let distance (k : Nat) : Int := squaredDistance (s.pixel p) (s.palAt k)
        (∀ k, k < 256 → distance best ≤ distance k) ∧ (∀ k, k < best → distance best < distance k)) ∧
      (∀ x, n ≤ x → t.byte .idx x = s.byte .idx x) ∧
      t = { s with
            idx := t.idx, idxLen := t.idxLen
            curOp := t.curOp, lzw := t.lzw, pack := t.pack, draws := t.draws }

/-! ### Packer and encoder -/

/-- Rule R177: OutByte appends one byte, or raises OutOverflow when OUT is full. -/
def Obligations.OutByteAppends : Prop :=
  ∀ (b : Byte) (s : State),
    (s.outLen.toNat = s.params.outCapacity → outByte b s = .error .outOverflow) ∧
    (s.outLen.toNat ≠ s.params.outCapacity →
      ∃ t, outByte b s = .ok t ∧ t.byte .out s.outLen.toNat = b ∧ t.outLen = s.outLen + 1 ∧
        (∀ x, x ≠ s.outLen.toNat → t.byte .out x = s.byte .out x) ∧
        t = { s with out := t.out, outLen := t.outLen })

/-- Rule R170: PackInit establishes the packer's invariant, PutCode keeps it, and Flush leaves nothing pending. -/
def Obligations.PackerInvariant : Prop :=
  (∀ s : State, PackInv (packInit s).pack) ∧
  (∀ (c w : Nat) (s t : State), PackInv s.pack → c < 2 ^ w → w ≤ 12 → putCode c w s = .ok t → PackInv t.pack) ∧
  (∀ s t : State, PackInv s.pack → flush s = .ok t → t.pack.nb = 0 ∧ t.pack.acc = 0 ∧ t.pack.bl = 0)

/-- Rule R161: the encoder's registers meet their invariant after the opening clear code and the first symbol, and
every pass of the loop keeps it. -/
def Obligations.EncoderInvariant : Prop :=
  (∀ (depth : Nat) (s t : State) (sym : Byte), 1 ≤ depth → depth ≤ 8 → openStream depth s = .ok t →
    sym.toNat < 2 ^ max 2 depth → EncInv (t.setPre sym.toNat).lzw) ∧
  (∀ (sym : Byte) (s t : State), EncInv s.lzw → lzwPass sym s = .ok t → EncInv t.lzw)

/-- Rule R161: every code is written in a width it fits, from `m + 1` to 12 bits. -/
def Obligations.CodesFitTheirWidth : Prop :=
  ∀ (m : Nat) (syms : List Byte), 2 ≤ m → m ≤ 8 → (∀ x ∈ syms, x.toNat < 2 ^ m) →
    ∀ code ∈ Reference.codes m syms, code.1 < 2 ^ code.2 ∧ m + 1 ≤ code.2 ∧ code.2 ≤ 12

/-- Rules R104, R150, R176: LzwStream appends the minimum code size, the codes packed bit 0 first into sub-blocks of
255 bytes and a last one of the rest, and the terminator; it raises OutOverflow when they do not fit. -/
def Obligations.LzwStreamIsThePackedCodes : Prop :=
  ∀ (depth n : Nat) (s : State), 1 ≤ depth → depth ≤ 8 →
    s.params.outCapacity < 2 ^ 32 → s.outLen.toNat ≤ s.params.outCapacity →
    (∀ x ∈ s.symbols n, x.toNat < 2 ^ max 2 depth) →
    let bytes := Reference.stream depth (s.symbols n)
    (s.outLen.toNat + bytes.length ≤ s.params.outCapacity →
      ∃ t, lzwStream depth n s = .ok t ∧ t.output = s.output ++ bytes ∧
        t.outLen.toNat = s.outLen.toNat + bytes.length ∧
        t = { s with outLen := t.outLen, out := t.out, lzw := t.lzw, pack := t.pack }) ∧
    (s.params.outCapacity < s.outLen.toNat + bytes.length → lzwStream depth n s = .error .outOverflow)

/-- Rule R156 (the round trip of 95_test_vectors.md S4): reading the codes of a stream gives back its symbols. -/
def Obligations.CodesReadBackToSymbols : Prop :=
  ∀ (m : Nat) (syms : List Byte), 2 ≤ m → m ≤ 8 → (∀ x ∈ syms, x.toNat < 2 ^ m) →
    Reference.readCodes m ((Reference.codes m syms).map Prod.fst) [] none = some syms

/-- Rule R276: the bytes of a stream of depth 8 are at most Lmax. -/
def Obligations.StreamLengthBound : Prop :=
  ∀ syms : List Byte, syms ≠ [] →
    (Reference.stream 8 syms).length ≤ Reference.maxStreamLength syms.length

/-- Rules R160, R162: LZW with every symbol in range leaves its stream, and nothing else, in OUT, or raises
OutOverflow when the stream does not fit. -/
def Obligations.LzwWritesItsStream : Prop :=
  ∀ (d : BitVec 4) (s : State), CoreInv s → Ready .idle s → 1 ≤ d.toNat → d.toNat ≤ 8 →
    (∀ x ∈ s.symbols s.idxLen.toNat, x.toNat < 2 ^ max 2 d.toNat) →
    let bytes := Reference.stream d.toNat (s.symbols s.idxLen.toNat)
    (bytes.length ≤ s.params.outCapacity →
      ∃ t, exec (.lzw d) s = .next t ∧ t.output = bytes ∧ t.outLen.toNat = bytes.length ∧
        t = { s with
              outLen := t.outLen, out := t.out
              curOp := t.curOp, lzw := t.lzw, pack := t.pack, draws := t.draws }) ∧
    (s.params.outCapacity < bytes.length → ∃ t, exec (.lzw d) s = .next t ∧ InError .outOverflow s t)

/-- Rules R160, R234, R239: a symbol out of range ends LZW in an error; it is EncodingFailure when the stream of the
symbols before it fits OUT. -/
def Obligations.LzwSymbolOutOfRange : Prop :=
  ∀ (d : BitVec 4) (s : State) (i : Nat), CoreInv s → Ready .idle s → 1 ≤ d.toNat → d.toNat ≤ 8 →
    i < s.idxLen.toNat → 2 ^ max 2 d.toNat ≤ (s.byte .idx i).toNat →
    (∀ j, j < i → (s.byte .idx j).toNat < 2 ^ max 2 d.toNat) →
    (∃ t, exec (.lzw d) s = .next t ∧ (InError .encodingFailure s t ∨ InError .outOverflow s t)) ∧
    ((Reference.stream d.toNat (s.symbols i)).length ≤ s.params.outCapacity →
      ∃ t, exec (.lzw d) s = .next t ∧ InError .encodingFailure s t)

/-- Rule R160: with depth 8 every byte is in range, so neither FRAME nor LZW 8 can raise EncodingFailure. -/
def Obligations.DepthEightNeverFails : Prop :=
  (∀ (n : Nat) (s : State), lzwStream 8 n s ≠ .error .encodingFailure) ∧
  (∀ s : State, runFrame s ≠ .error .encodingFailure)

/-- Rule R159: the stream of no symbols is clear, end, both in `m + 1` bits. -/
def Obligations.EmptyStreamBytes : Prop :=
  ∀ s : State, CoreInv s → Ready .idle s → s.idxLen = 0 →
    (∃ t, exec (.lzw 8) s = .next t ∧ t.output = [0x08, 0x03, 0x00, 0x03, 0x02, 0x00]) ∧
    (∃ t, exec (.lzw 2) s = .next t ∧ t.output = [0x02, 0x01, 0x2C, 0x00])
end

