-- ==== Sys2Proof/Laws/State.lean ====
section
/-! SUPPORT. One lemma per field per update of the state, each true by rfl, so that no later proof unfolds a record
update. -/

namespace Sys2Proof.Machine

@[simp] theorem dropOutput_params (s : State) : (dropOutput s).params = s.params := rfl
@[simp] theorem dropOutput_busy (s : State) : (dropOutput s).busy = s.busy := rfl
@[simp] theorem dropOutput_cancelReq (s : State) : (dropOutput s).cancelReq = s.cancelReq := rfl
@[simp] theorem dropOutput_cmdRej (s : State) : (dropOutput s).cmdRej = s.cmdRej := rfl
@[simp] theorem dropOutput_phase (s : State) : (dropOutput s).phase = s.phase := rfl
@[simp] theorem dropOutput_errCode (s : State) : (dropOutput s).errCode = s.errCode := rfl
@[simp] theorem dropOutput_errFrame (s : State) : (dropOutput s).errFrame = s.errFrame := rfl
@[simp] theorem dropOutput_width (s : State) : (dropOutput s).width = s.width := rfl
@[simp] theorem dropOutput_height (s : State) : (dropOutput s).height = s.height := rfl
@[simp] theorem dropOutput_delay (s : State) : (dropOutput s).delay = s.delay := rfl
@[simp] theorem dropOutput_frameCount (s : State) : (dropOutput s).frameCount = s.frameCount := rfl
@[simp] theorem dropOutput_frameW (s : State) : (dropOutput s).frameW = s.frameW := rfl
@[simp] theorem dropOutput_frameH (s : State) : (dropOutput s).frameH = s.frameH := rfl
@[simp] theorem dropOutput_framesDone (s : State) : (dropOutput s).framesDone = s.framesDone := rfl
@[simp] theorem dropOutput_outLen (s : State) : (dropOutput s).outLen = 0 := rfl
@[simp] theorem dropOutput_smpCount (s : State) : (dropOutput s).smpCount = s.smpCount := rfl
@[simp] theorem dropOutput_bktCount (s : State) : (dropOutput s).bktCount = s.bktCount := rfl
@[simp] theorem dropOutput_idxLen (s : State) : (dropOutput s).idxLen = s.idxLen := rfl
@[simp] theorem dropOutput_stride (s : State) : (dropOutput s).stride = s.stride := rfl
@[simp] theorem dropOutput_curOp (s : State) : (dropOutput s).curOp = s.curOp := rfl
@[simp] theorem dropOutput_lzw (s : State) : (dropOutput s).lzw = s.lzw := rfl
@[simp] theorem dropOutput_pack (s : State) : (dropOutput s).pack = s.pack := rfl
@[simp] theorem dropOutput_bkt (s : State) : (dropOutput s).bkt = s.bkt := rfl
@[simp] theorem dropOutput_fb (s : State) : (dropOutput s).fb = s.fb := rfl
@[simp] theorem dropOutput_smp (s : State) : (dropOutput s).smp = s.smp := rfl
@[simp] theorem dropOutput_pal (s : State) : (dropOutput s).pal = s.pal := rfl
@[simp] theorem dropOutput_idx (s : State) : (dropOutput s).idx = s.idx := rfl
@[simp] theorem dropOutput_out (s : State) : (dropOutput s).out = s.out.forget := rfl
@[simp] theorem dropOutput_queue (s : State) : (dropOutput s).queue = s.queue := rfl
@[simp] theorem dropOutput_rdata (s : State) : (dropOutput s).rdata = s.rdata := rfl
@[simp] theorem dropOutput_draws (s : State) : (dropOutput s).draws = s.draws := rfl

@[simp] theorem reject_params (s : State) : (reject s).params = s.params := rfl
@[simp] theorem reject_busy (s : State) : (reject s).busy = s.busy := rfl
@[simp] theorem reject_cancelReq (s : State) : (reject s).cancelReq = s.cancelReq := rfl
@[simp] theorem reject_cmdRej (s : State) : (reject s).cmdRej = true := rfl
@[simp] theorem reject_phase (s : State) : (reject s).phase = s.phase := rfl
@[simp] theorem reject_errCode (s : State) : (reject s).errCode = s.errCode := rfl
@[simp] theorem reject_errFrame (s : State) : (reject s).errFrame = s.errFrame := rfl
@[simp] theorem reject_width (s : State) : (reject s).width = s.width := rfl
@[simp] theorem reject_height (s : State) : (reject s).height = s.height := rfl
@[simp] theorem reject_delay (s : State) : (reject s).delay = s.delay := rfl
@[simp] theorem reject_frameCount (s : State) : (reject s).frameCount = s.frameCount := rfl
@[simp] theorem reject_frameW (s : State) : (reject s).frameW = s.frameW := rfl
@[simp] theorem reject_frameH (s : State) : (reject s).frameH = s.frameH := rfl
@[simp] theorem reject_framesDone (s : State) : (reject s).framesDone = s.framesDone := rfl
@[simp] theorem reject_outLen (s : State) : (reject s).outLen = s.outLen := rfl
@[simp] theorem reject_smpCount (s : State) : (reject s).smpCount = s.smpCount := rfl
@[simp] theorem reject_bktCount (s : State) : (reject s).bktCount = s.bktCount := rfl
@[simp] theorem reject_idxLen (s : State) : (reject s).idxLen = s.idxLen := rfl
@[simp] theorem reject_stride (s : State) : (reject s).stride = s.stride := rfl
@[simp] theorem reject_curOp (s : State) : (reject s).curOp = s.curOp := rfl
@[simp] theorem reject_lzw (s : State) : (reject s).lzw = s.lzw := rfl
@[simp] theorem reject_pack (s : State) : (reject s).pack = s.pack := rfl
@[simp] theorem reject_bkt (s : State) : (reject s).bkt = s.bkt := rfl
@[simp] theorem reject_fb (s : State) : (reject s).fb = s.fb := rfl
@[simp] theorem reject_smp (s : State) : (reject s).smp = s.smp := rfl
@[simp] theorem reject_pal (s : State) : (reject s).pal = s.pal := rfl
@[simp] theorem reject_idx (s : State) : (reject s).idx = s.idx := rfl
@[simp] theorem reject_out (s : State) : (reject s).out = s.out := rfl
@[simp] theorem reject_queue (s : State) : (reject s).queue = s.queue := rfl
@[simp] theorem reject_rdata (s : State) : (reject s).rdata = s.rdata := rfl
@[simp] theorem reject_draws (s : State) : (reject s).draws = s.draws := rfl

@[simp] theorem forgetWorking_params (s : State) : (forgetWorking s).params = s.params := rfl
@[simp] theorem forgetWorking_busy (s : State) : (forgetWorking s).busy = s.busy := rfl
@[simp] theorem forgetWorking_cancelReq (s : State) : (forgetWorking s).cancelReq = s.cancelReq := rfl
@[simp] theorem forgetWorking_cmdRej (s : State) : (forgetWorking s).cmdRej = s.cmdRej := rfl
@[simp] theorem forgetWorking_phase (s : State) : (forgetWorking s).phase = s.phase := rfl
@[simp] theorem forgetWorking_errCode (s : State) : (forgetWorking s).errCode = s.errCode := rfl
@[simp] theorem forgetWorking_errFrame (s : State) : (forgetWorking s).errFrame = s.errFrame := rfl
@[simp] theorem forgetWorking_width (s : State) : (forgetWorking s).width = s.width := rfl
@[simp] theorem forgetWorking_height (s : State) : (forgetWorking s).height = s.height := rfl
@[simp] theorem forgetWorking_delay (s : State) : (forgetWorking s).delay = s.delay := rfl
@[simp] theorem forgetWorking_frameCount (s : State) : (forgetWorking s).frameCount = s.frameCount := rfl
@[simp] theorem forgetWorking_frameW (s : State) : (forgetWorking s).frameW = s.frameW := rfl
@[simp] theorem forgetWorking_frameH (s : State) : (forgetWorking s).frameH = s.frameH := rfl
@[simp] theorem forgetWorking_framesDone (s : State) : (forgetWorking s).framesDone = s.framesDone := rfl
@[simp] theorem forgetWorking_outLen (s : State) : (forgetWorking s).outLen = s.outLen := rfl
@[simp] theorem forgetWorking_smpCount (s : State) : (forgetWorking s).smpCount = s.smpCount := rfl
@[simp] theorem forgetWorking_bktCount (s : State) : (forgetWorking s).bktCount = s.bktCount := rfl
@[simp] theorem forgetWorking_idxLen (s : State) : (forgetWorking s).idxLen = s.idxLen := rfl
@[simp] theorem forgetWorking_stride (s : State) : (forgetWorking s).stride = s.stride := rfl
@[simp] theorem forgetWorking_curOp (s : State) : (forgetWorking s).curOp = Config.freeCurOp s.draws := rfl
@[simp] theorem forgetWorking_lzw (s : State) : (forgetWorking s).lzw = Config.freeLzw s.draws := rfl
@[simp] theorem forgetWorking_pack (s : State) : (forgetWorking s).pack = Config.freePack s.draws := rfl
@[simp] theorem forgetWorking_bkt (s : State) : (forgetWorking s).bkt = s.bkt := rfl
@[simp] theorem forgetWorking_fb (s : State) : (forgetWorking s).fb = s.fb := rfl
@[simp] theorem forgetWorking_smp (s : State) : (forgetWorking s).smp = s.smp := rfl
@[simp] theorem forgetWorking_pal (s : State) : (forgetWorking s).pal = s.pal := rfl
@[simp] theorem forgetWorking_idx (s : State) : (forgetWorking s).idx = s.idx := rfl
@[simp] theorem forgetWorking_out (s : State) : (forgetWorking s).out = s.out := rfl
@[simp] theorem forgetWorking_queue (s : State) : (forgetWorking s).queue = s.queue := rfl
@[simp] theorem forgetWorking_rdata (s : State) : (forgetWorking s).rdata = s.rdata := rfl
@[simp] theorem forgetWorking_draws (s : State) : (forgetWorking s).draws = s.draws + 1 := rfl

@[simp] theorem forgetBuffers_params (s : State) : (forgetBuffers s).params = s.params := rfl
@[simp] theorem forgetBuffers_busy (s : State) : (forgetBuffers s).busy = s.busy := rfl
@[simp] theorem forgetBuffers_cancelReq (s : State) : (forgetBuffers s).cancelReq = s.cancelReq := rfl
@[simp] theorem forgetBuffers_cmdRej (s : State) : (forgetBuffers s).cmdRej = s.cmdRej := rfl
@[simp] theorem forgetBuffers_phase (s : State) : (forgetBuffers s).phase = s.phase := rfl
@[simp] theorem forgetBuffers_errCode (s : State) : (forgetBuffers s).errCode = s.errCode := rfl
@[simp] theorem forgetBuffers_errFrame (s : State) : (forgetBuffers s).errFrame = s.errFrame := rfl
@[simp] theorem forgetBuffers_width (s : State) : (forgetBuffers s).width = s.width := rfl
@[simp] theorem forgetBuffers_height (s : State) : (forgetBuffers s).height = s.height := rfl
@[simp] theorem forgetBuffers_delay (s : State) : (forgetBuffers s).delay = s.delay := rfl
@[simp] theorem forgetBuffers_frameCount (s : State) : (forgetBuffers s).frameCount = s.frameCount := rfl
@[simp] theorem forgetBuffers_frameW (s : State) : (forgetBuffers s).frameW = s.frameW := rfl
@[simp] theorem forgetBuffers_frameH (s : State) : (forgetBuffers s).frameH = s.frameH := rfl
@[simp] theorem forgetBuffers_framesDone (s : State) : (forgetBuffers s).framesDone = s.framesDone := rfl
@[simp] theorem forgetBuffers_outLen (s : State) : (forgetBuffers s).outLen = s.outLen := rfl
@[simp] theorem forgetBuffers_smpCount (s : State) :
    (forgetBuffers s).smpCount = BitVec.ofNat 32 (Config.freeSmpCount s.draws % (s.params.sampleBudget + 1)) := rfl
@[simp] theorem forgetBuffers_bktCount (s : State) :
    (forgetBuffers s).bktCount = BitVec.ofNat 9 (freeBktCount s) := rfl
@[simp] theorem forgetBuffers_idxLen (s : State) :
    (forgetBuffers s).idxLen = BitVec.ofNat 32 (Config.freeIdxLen s.draws % (s.params.maxPixels + 1)) := rfl
@[simp] theorem forgetBuffers_stride (s : State) :
    (forgetBuffers s).stride = BitVec.ofNat 32 (Config.freeStride s.draws) := rfl
@[simp] theorem forgetBuffers_curOp (s : State) : (forgetBuffers s).curOp = s.curOp := rfl
@[simp] theorem forgetBuffers_lzw (s : State) : (forgetBuffers s).lzw = s.lzw := rfl
@[simp] theorem forgetBuffers_pack (s : State) : (forgetBuffers s).pack = s.pack := rfl
@[simp] theorem forgetBuffers_bkt (s : State) :
    (forgetBuffers s).bkt = (List.range (freeBktCount s)).map (freeBucket s) := rfl
@[simp] theorem forgetBuffers_fb (s : State) : (forgetBuffers s).fb = s.fb := rfl
@[simp] theorem forgetBuffers_smp (s : State) : (forgetBuffers s).smp = s.smp.forget := rfl
@[simp] theorem forgetBuffers_pal (s : State) : (forgetBuffers s).pal = s.pal.forget := rfl
@[simp] theorem forgetBuffers_idx (s : State) : (forgetBuffers s).idx = s.idx.forget := rfl
@[simp] theorem forgetBuffers_out (s : State) : (forgetBuffers s).out = s.out := rfl
@[simp] theorem forgetBuffers_queue (s : State) : (forgetBuffers s).queue = s.queue := rfl
@[simp] theorem forgetBuffers_rdata (s : State) : (forgetBuffers s).rdata = s.rdata := rfl
@[simp] theorem forgetBuffers_draws (s : State) : (forgetBuffers s).draws = s.draws + 1 := rfl

@[simp] theorem errorEntry_params (k : ErrCode) (s : State) : (errorEntry k s).params = s.params := rfl
@[simp] theorem errorEntry_busy (k : ErrCode) (s : State) : (errorEntry k s).busy = false := rfl
@[simp] theorem errorEntry_cancelReq (k : ErrCode) (s : State) : (errorEntry k s).cancelReq = false := rfl
@[simp] theorem errorEntry_cmdRej (k : ErrCode) (s : State) : (errorEntry k s).cmdRej = s.cmdRej := rfl
@[simp] theorem errorEntry_phase (k : ErrCode) (s : State) : (errorEntry k s).phase = .error := rfl
@[simp] theorem errorEntry_errCode (k : ErrCode) (s : State) : (errorEntry k s).errCode = k := rfl
@[simp] theorem errorEntry_errFrame (k : ErrCode) (s : State) : (errorEntry k s).errFrame = s.framesDone := rfl
@[simp] theorem errorEntry_width (k : ErrCode) (s : State) : (errorEntry k s).width = s.width := rfl
@[simp] theorem errorEntry_height (k : ErrCode) (s : State) : (errorEntry k s).height = s.height := rfl
@[simp] theorem errorEntry_delay (k : ErrCode) (s : State) : (errorEntry k s).delay = s.delay := rfl
@[simp] theorem errorEntry_frameCount (k : ErrCode) (s : State) : (errorEntry k s).frameCount = s.frameCount := rfl
@[simp] theorem errorEntry_frameW (k : ErrCode) (s : State) : (errorEntry k s).frameW = s.frameW := rfl
@[simp] theorem errorEntry_frameH (k : ErrCode) (s : State) : (errorEntry k s).frameH = s.frameH := rfl
@[simp] theorem errorEntry_framesDone (k : ErrCode) (s : State) : (errorEntry k s).framesDone = s.framesDone := rfl
@[simp] theorem errorEntry_outLen (k : ErrCode) (s : State) : (errorEntry k s).outLen = 0 := rfl
@[simp] theorem errorEntry_smpCount (k : ErrCode) (s : State) :
    (errorEntry k s).smpCount = BitVec.ofNat 32 (Config.freeSmpCount s.draws % (s.params.sampleBudget + 1)) := rfl
@[simp] theorem errorEntry_bktCount (k : ErrCode) (s : State) :
    (errorEntry k s).bktCount = BitVec.ofNat 9 (freeBktCount s) := rfl
@[simp] theorem errorEntry_idxLen (k : ErrCode) (s : State) :
    (errorEntry k s).idxLen = BitVec.ofNat 32 (Config.freeIdxLen s.draws % (s.params.maxPixels + 1)) := rfl
@[simp] theorem errorEntry_stride (k : ErrCode) (s : State) :
    (errorEntry k s).stride = BitVec.ofNat 32 (Config.freeStride s.draws) := rfl
@[simp] theorem errorEntry_curOp (k : ErrCode) (s : State) :
    (errorEntry k s).curOp = Config.freeCurOp (s.draws + 1) := rfl
@[simp] theorem errorEntry_lzw (k : ErrCode) (s : State) : (errorEntry k s).lzw = Config.freeLzw (s.draws + 1) := rfl
@[simp] theorem errorEntry_pack (k : ErrCode) (s : State) :
    (errorEntry k s).pack = Config.freePack (s.draws + 1) := rfl
@[simp] theorem errorEntry_bkt (k : ErrCode) (s : State) : (errorEntry k s).bkt =
    (List.range (freeBktCount s)).map (freeBucket s) := rfl
@[simp] theorem errorEntry_fb (k : ErrCode) (s : State) : (errorEntry k s).fb = s.fb := rfl
@[simp] theorem errorEntry_smp (k : ErrCode) (s : State) : (errorEntry k s).smp = s.smp.forget := rfl
@[simp] theorem errorEntry_pal (k : ErrCode) (s : State) : (errorEntry k s).pal = s.pal.forget := rfl
@[simp] theorem errorEntry_idx (k : ErrCode) (s : State) : (errorEntry k s).idx = s.idx.forget := rfl
@[simp] theorem errorEntry_out (k : ErrCode) (s : State) : (errorEntry k s).out = s.out.forget := rfl
@[simp] theorem errorEntry_queue (k : ErrCode) (s : State) : (errorEntry k s).queue = s.queue := rfl
@[simp] theorem errorEntry_rdata (k : ErrCode) (s : State) : (errorEntry k s).rdata = s.rdata := rfl
@[simp] theorem errorEntry_draws (k : ErrCode) (s : State) : (errorEntry k s).draws = s.draws + 2 := rfl

@[simp] theorem backToIdle_params (s : State) : (backToIdle s).params = s.params := rfl
@[simp] theorem backToIdle_busy (s : State) : (backToIdle s).busy = s.busy := rfl
@[simp] theorem backToIdle_cancelReq (s : State) : (backToIdle s).cancelReq = false := rfl
@[simp] theorem backToIdle_cmdRej (s : State) : (backToIdle s).cmdRej = false := rfl
@[simp] theorem backToIdle_phase (s : State) : (backToIdle s).phase = .idle := rfl
@[simp] theorem backToIdle_errCode (s : State) : (backToIdle s).errCode = .noError := rfl
@[simp] theorem backToIdle_errFrame (s : State) : (backToIdle s).errFrame = 0 := rfl
@[simp] theorem backToIdle_width (s : State) : (backToIdle s).width = s.width := rfl
@[simp] theorem backToIdle_height (s : State) : (backToIdle s).height = s.height := rfl
@[simp] theorem backToIdle_delay (s : State) : (backToIdle s).delay = s.delay := rfl
@[simp] theorem backToIdle_frameCount (s : State) : (backToIdle s).frameCount = s.frameCount := rfl
@[simp] theorem backToIdle_frameW (s : State) : (backToIdle s).frameW = s.frameW := rfl
@[simp] theorem backToIdle_frameH (s : State) : (backToIdle s).frameH = s.frameH := rfl
@[simp] theorem backToIdle_framesDone (s : State) : (backToIdle s).framesDone = 0 := rfl
@[simp] theorem backToIdle_outLen (s : State) : (backToIdle s).outLen = 0 := rfl
@[simp] theorem backToIdle_smpCount (s : State) : (backToIdle s).smpCount = s.smpCount := rfl
@[simp] theorem backToIdle_bktCount (s : State) : (backToIdle s).bktCount = s.bktCount := rfl
@[simp] theorem backToIdle_idxLen (s : State) : (backToIdle s).idxLen = s.idxLen := rfl
@[simp] theorem backToIdle_stride (s : State) : (backToIdle s).stride = s.stride := rfl
@[simp] theorem backToIdle_curOp (s : State) : (backToIdle s).curOp = s.curOp := rfl
@[simp] theorem backToIdle_lzw (s : State) : (backToIdle s).lzw = s.lzw := rfl
@[simp] theorem backToIdle_pack (s : State) : (backToIdle s).pack = s.pack := rfl
@[simp] theorem backToIdle_bkt (s : State) : (backToIdle s).bkt = s.bkt := rfl
@[simp] theorem backToIdle_fb (s : State) : (backToIdle s).fb = s.fb := rfl
@[simp] theorem backToIdle_smp (s : State) : (backToIdle s).smp = s.smp := rfl
@[simp] theorem backToIdle_pal (s : State) : (backToIdle s).pal = s.pal := rfl
@[simp] theorem backToIdle_idx (s : State) : (backToIdle s).idx = s.idx := rfl
@[simp] theorem backToIdle_out (s : State) : (backToIdle s).out = s.out.forget := rfl
@[simp] theorem backToIdle_queue (s : State) : (backToIdle s).queue = s.queue := rfl
@[simp] theorem backToIdle_rdata (s : State) : (backToIdle s).rdata = s.rdata := rfl
@[simp] theorem backToIdle_draws (s : State) : (backToIdle s).draws = s.draws := rfl

@[simp] theorem issue_params (op : IssuedOp) (s : State) : (issue op s).params = s.params := rfl
@[simp] theorem issue_busy (op : IssuedOp) (s : State) : (issue op s).busy = true := rfl
@[simp] theorem issue_cancelReq (op : IssuedOp) (s : State) : (issue op s).cancelReq = s.cancelReq := rfl
@[simp] theorem issue_cmdRej (op : IssuedOp) (s : State) : (issue op s).cmdRej = s.cmdRej := rfl
@[simp] theorem issue_phase (op : IssuedOp) (s : State) : (issue op s).phase = s.phase := rfl
@[simp] theorem issue_errCode (op : IssuedOp) (s : State) : (issue op s).errCode = s.errCode := rfl
@[simp] theorem issue_errFrame (op : IssuedOp) (s : State) : (issue op s).errFrame = s.errFrame := rfl
@[simp] theorem issue_width (op : IssuedOp) (s : State) : (issue op s).width = s.width := rfl
@[simp] theorem issue_height (op : IssuedOp) (s : State) : (issue op s).height = s.height := rfl
@[simp] theorem issue_delay (op : IssuedOp) (s : State) : (issue op s).delay = s.delay := rfl
@[simp] theorem issue_frameCount (op : IssuedOp) (s : State) : (issue op s).frameCount = s.frameCount := rfl
@[simp] theorem issue_frameW (op : IssuedOp) (s : State) : (issue op s).frameW = s.frameW := rfl
@[simp] theorem issue_frameH (op : IssuedOp) (s : State) : (issue op s).frameH = s.frameH := rfl
@[simp] theorem issue_framesDone (op : IssuedOp) (s : State) : (issue op s).framesDone = s.framesDone := rfl
@[simp] theorem issue_outLen (op : IssuedOp) (s : State) : (issue op s).outLen = s.outLen := rfl
@[simp] theorem issue_smpCount (op : IssuedOp) (s : State) : (issue op s).smpCount = s.smpCount := rfl
@[simp] theorem issue_bktCount (op : IssuedOp) (s : State) : (issue op s).bktCount = s.bktCount := rfl
@[simp] theorem issue_idxLen (op : IssuedOp) (s : State) : (issue op s).idxLen = s.idxLen := rfl
@[simp] theorem issue_stride (op : IssuedOp) (s : State) : (issue op s).stride = s.stride := rfl
@[simp] theorem issue_curOp (op : IssuedOp) (s : State) : (issue op s).curOp = op := rfl
@[simp] theorem issue_lzw (op : IssuedOp) (s : State) : (issue op s).lzw = s.lzw := rfl
@[simp] theorem issue_pack (op : IssuedOp) (s : State) : (issue op s).pack = s.pack := rfl
@[simp] theorem issue_bkt (op : IssuedOp) (s : State) : (issue op s).bkt = s.bkt := rfl
@[simp] theorem issue_fb (op : IssuedOp) (s : State) : (issue op s).fb = s.fb := rfl
@[simp] theorem issue_smp (op : IssuedOp) (s : State) : (issue op s).smp = s.smp := rfl
@[simp] theorem issue_pal (op : IssuedOp) (s : State) : (issue op s).pal = s.pal := rfl
@[simp] theorem issue_idx (op : IssuedOp) (s : State) : (issue op s).idx = s.idx := rfl
@[simp] theorem issue_out (op : IssuedOp) (s : State) : (issue op s).out = s.out := rfl
@[simp] theorem issue_queue (op : IssuedOp) (s : State) : (issue op s).queue = s.queue := rfl
@[simp] theorem issue_rdata (op : IssuedOp) (s : State) : (issue op s).rdata = s.rdata := rfl
@[simp] theorem issue_draws (op : IssuedOp) (s : State) : (issue op s).draws = s.draws := rfl

@[simp] theorem startConversion_params (s : State) : (startConversion s).params = s.params := rfl
@[simp] theorem startConversion_busy (s : State) : (startConversion s).busy = s.busy := rfl
@[simp] theorem startConversion_cancelReq (s : State) : (startConversion s).cancelReq = s.cancelReq := rfl
@[simp] theorem startConversion_cmdRej (s : State) : (startConversion s).cmdRej = s.cmdRej := rfl
@[simp] theorem startConversion_phase (s : State) : (startConversion s).phase = s.phase := rfl
@[simp] theorem startConversion_errCode (s : State) : (startConversion s).errCode = s.errCode := rfl
@[simp] theorem startConversion_errFrame (s : State) : (startConversion s).errFrame = s.errFrame := rfl
@[simp] theorem startConversion_width (s : State) : (startConversion s).width = s.width := rfl
@[simp] theorem startConversion_height (s : State) : (startConversion s).height = s.height := rfl
@[simp] theorem startConversion_delay (s : State) : (startConversion s).delay = s.delay := rfl
@[simp] theorem startConversion_frameCount (s : State) : (startConversion s).frameCount = s.frameCount := rfl
@[simp] theorem startConversion_frameW (s : State) : (startConversion s).frameW = s.frameW := rfl
@[simp] theorem startConversion_frameH (s : State) : (startConversion s).frameH = s.frameH := rfl
@[simp] theorem startConversion_framesDone (s : State) : (startConversion s).framesDone = 0 := rfl
@[simp] theorem startConversion_outLen (s : State) : (startConversion s).outLen = 0 := rfl
@[simp] theorem startConversion_smpCount (s : State) : (startConversion s).smpCount = s.smpCount := rfl
@[simp] theorem startConversion_bktCount (s : State) : (startConversion s).bktCount = s.bktCount := rfl
@[simp] theorem startConversion_idxLen (s : State) : (startConversion s).idxLen = s.idxLen := rfl
@[simp] theorem startConversion_stride (s : State) : (startConversion s).stride = s.stride := rfl
@[simp] theorem startConversion_curOp (s : State) : (startConversion s).curOp = s.curOp := rfl
@[simp] theorem startConversion_lzw (s : State) : (startConversion s).lzw = s.lzw := rfl
@[simp] theorem startConversion_pack (s : State) : (startConversion s).pack = s.pack := rfl
@[simp] theorem startConversion_bkt (s : State) : (startConversion s).bkt = s.bkt := rfl
@[simp] theorem startConversion_fb (s : State) : (startConversion s).fb = s.fb := rfl
@[simp] theorem startConversion_smp (s : State) : (startConversion s).smp = s.smp := rfl
@[simp] theorem startConversion_pal (s : State) : (startConversion s).pal = s.pal := rfl
@[simp] theorem startConversion_idx (s : State) : (startConversion s).idx = s.idx := rfl
@[simp] theorem startConversion_out (s : State) : (startConversion s).out = s.out.forget := rfl
@[simp] theorem startConversion_queue (s : State) : (startConversion s).queue = s.queue := rfl
@[simp] theorem startConversion_rdata (s : State) : (startConversion s).rdata = s.rdata := rfl
@[simp] theorem startConversion_draws (s : State) : (startConversion s).draws = s.draws := rfl

@[simp] theorem setPre_params (s : State) (c : Nat) : (s.setPre c).params = s.params := rfl
@[simp] theorem setPre_busy (s : State) (c : Nat) : (s.setPre c).busy = s.busy := rfl
@[simp] theorem setPre_cancelReq (s : State) (c : Nat) : (s.setPre c).cancelReq = s.cancelReq := rfl
@[simp] theorem setPre_cmdRej (s : State) (c : Nat) : (s.setPre c).cmdRej = s.cmdRej := rfl
@[simp] theorem setPre_phase (s : State) (c : Nat) : (s.setPre c).phase = s.phase := rfl
@[simp] theorem setPre_errCode (s : State) (c : Nat) : (s.setPre c).errCode = s.errCode := rfl
@[simp] theorem setPre_errFrame (s : State) (c : Nat) : (s.setPre c).errFrame = s.errFrame := rfl
@[simp] theorem setPre_width (s : State) (c : Nat) : (s.setPre c).width = s.width := rfl
@[simp] theorem setPre_height (s : State) (c : Nat) : (s.setPre c).height = s.height := rfl
@[simp] theorem setPre_delay (s : State) (c : Nat) : (s.setPre c).delay = s.delay := rfl
@[simp] theorem setPre_frameCount (s : State) (c : Nat) : (s.setPre c).frameCount = s.frameCount := rfl
@[simp] theorem setPre_frameW (s : State) (c : Nat) : (s.setPre c).frameW = s.frameW := rfl
@[simp] theorem setPre_frameH (s : State) (c : Nat) : (s.setPre c).frameH = s.frameH := rfl
@[simp] theorem setPre_framesDone (s : State) (c : Nat) : (s.setPre c).framesDone = s.framesDone := rfl
@[simp] theorem setPre_outLen (s : State) (c : Nat) : (s.setPre c).outLen = s.outLen := rfl
@[simp] theorem setPre_smpCount (s : State) (c : Nat) : (s.setPre c).smpCount = s.smpCount := rfl
@[simp] theorem setPre_bktCount (s : State) (c : Nat) : (s.setPre c).bktCount = s.bktCount := rfl
@[simp] theorem setPre_idxLen (s : State) (c : Nat) : (s.setPre c).idxLen = s.idxLen := rfl
@[simp] theorem setPre_stride (s : State) (c : Nat) : (s.setPre c).stride = s.stride := rfl
@[simp] theorem setPre_curOp (s : State) (c : Nat) : (s.setPre c).curOp = s.curOp := rfl
@[simp] theorem setPre_lzw (s : State) (c : Nat) : (s.setPre c).lzw = { s.lzw with pre := c } := rfl
@[simp] theorem setPre_pack (s : State) (c : Nat) : (s.setPre c).pack = s.pack := rfl
@[simp] theorem setPre_bkt (s : State) (c : Nat) : (s.setPre c).bkt = s.bkt := rfl
@[simp] theorem setPre_fb (s : State) (c : Nat) : (s.setPre c).fb = s.fb := rfl
@[simp] theorem setPre_smp (s : State) (c : Nat) : (s.setPre c).smp = s.smp := rfl
@[simp] theorem setPre_pal (s : State) (c : Nat) : (s.setPre c).pal = s.pal := rfl
@[simp] theorem setPre_idx (s : State) (c : Nat) : (s.setPre c).idx = s.idx := rfl
@[simp] theorem setPre_out (s : State) (c : Nat) : (s.setPre c).out = s.out := rfl
@[simp] theorem setPre_queue (s : State) (c : Nat) : (s.setPre c).queue = s.queue := rfl
@[simp] theorem setPre_rdata (s : State) (c : Nat) : (s.setPre c).rdata = s.rdata := rfl
@[simp] theorem setPre_draws (s : State) (c : Nat) : (s.setPre c).draws = s.draws := rfl

@[simp] theorem setBlk_params (s : State) (l : List Byte) : (s.setBlk l).params = s.params := rfl
@[simp] theorem setBlk_busy (s : State) (l : List Byte) : (s.setBlk l).busy = s.busy := rfl
@[simp] theorem setBlk_cancelReq (s : State) (l : List Byte) : (s.setBlk l).cancelReq = s.cancelReq := rfl
@[simp] theorem setBlk_cmdRej (s : State) (l : List Byte) : (s.setBlk l).cmdRej = s.cmdRej := rfl
@[simp] theorem setBlk_phase (s : State) (l : List Byte) : (s.setBlk l).phase = s.phase := rfl
@[simp] theorem setBlk_errCode (s : State) (l : List Byte) : (s.setBlk l).errCode = s.errCode := rfl
@[simp] theorem setBlk_errFrame (s : State) (l : List Byte) : (s.setBlk l).errFrame = s.errFrame := rfl
@[simp] theorem setBlk_width (s : State) (l : List Byte) : (s.setBlk l).width = s.width := rfl
@[simp] theorem setBlk_height (s : State) (l : List Byte) : (s.setBlk l).height = s.height := rfl
@[simp] theorem setBlk_delay (s : State) (l : List Byte) : (s.setBlk l).delay = s.delay := rfl
@[simp] theorem setBlk_frameCount (s : State) (l : List Byte) : (s.setBlk l).frameCount = s.frameCount := rfl
@[simp] theorem setBlk_frameW (s : State) (l : List Byte) : (s.setBlk l).frameW = s.frameW := rfl
@[simp] theorem setBlk_frameH (s : State) (l : List Byte) : (s.setBlk l).frameH = s.frameH := rfl
@[simp] theorem setBlk_framesDone (s : State) (l : List Byte) : (s.setBlk l).framesDone = s.framesDone := rfl
@[simp] theorem setBlk_outLen (s : State) (l : List Byte) : (s.setBlk l).outLen = s.outLen := rfl
@[simp] theorem setBlk_smpCount (s : State) (l : List Byte) : (s.setBlk l).smpCount = s.smpCount := rfl
@[simp] theorem setBlk_bktCount (s : State) (l : List Byte) : (s.setBlk l).bktCount = s.bktCount := rfl
@[simp] theorem setBlk_idxLen (s : State) (l : List Byte) : (s.setBlk l).idxLen = s.idxLen := rfl
@[simp] theorem setBlk_stride (s : State) (l : List Byte) : (s.setBlk l).stride = s.stride := rfl
@[simp] theorem setBlk_curOp (s : State) (l : List Byte) : (s.setBlk l).curOp = s.curOp := rfl
@[simp] theorem setBlk_lzw (s : State) (l : List Byte) : (s.setBlk l).lzw = s.lzw := rfl
@[simp] theorem setBlk_pack (s : State) (l : List Byte) : (s.setBlk l).pack = { s.pack with blk := l } := rfl
@[simp] theorem setBlk_bkt (s : State) (l : List Byte) : (s.setBlk l).bkt = s.bkt := rfl
@[simp] theorem setBlk_fb (s : State) (l : List Byte) : (s.setBlk l).fb = s.fb := rfl
@[simp] theorem setBlk_smp (s : State) (l : List Byte) : (s.setBlk l).smp = s.smp := rfl
@[simp] theorem setBlk_pal (s : State) (l : List Byte) : (s.setBlk l).pal = s.pal := rfl
@[simp] theorem setBlk_idx (s : State) (l : List Byte) : (s.setBlk l).idx = s.idx := rfl
@[simp] theorem setBlk_out (s : State) (l : List Byte) : (s.setBlk l).out = s.out := rfl
@[simp] theorem setBlk_queue (s : State) (l : List Byte) : (s.setBlk l).queue = s.queue := rfl
@[simp] theorem setBlk_rdata (s : State) (l : List Byte) : (s.setBlk l).rdata = s.rdata := rfl
@[simp] theorem setBlk_draws (s : State) (l : List Byte) : (s.setBlk l).draws = s.draws := rfl

@[simp] theorem setBits_params (s : State) (acc nb : Nat) : (s.setBits acc nb).params = s.params := rfl
@[simp] theorem setBits_busy (s : State) (acc nb : Nat) : (s.setBits acc nb).busy = s.busy := rfl
@[simp] theorem setBits_cancelReq (s : State) (acc nb : Nat) : (s.setBits acc nb).cancelReq = s.cancelReq := rfl
@[simp] theorem setBits_cmdRej (s : State) (acc nb : Nat) : (s.setBits acc nb).cmdRej = s.cmdRej := rfl
@[simp] theorem setBits_phase (s : State) (acc nb : Nat) : (s.setBits acc nb).phase = s.phase := rfl
@[simp] theorem setBits_errCode (s : State) (acc nb : Nat) : (s.setBits acc nb).errCode = s.errCode := rfl
@[simp] theorem setBits_errFrame (s : State) (acc nb : Nat) : (s.setBits acc nb).errFrame = s.errFrame := rfl
@[simp] theorem setBits_width (s : State) (acc nb : Nat) : (s.setBits acc nb).width = s.width := rfl
@[simp] theorem setBits_height (s : State) (acc nb : Nat) : (s.setBits acc nb).height = s.height := rfl
@[simp] theorem setBits_delay (s : State) (acc nb : Nat) : (s.setBits acc nb).delay = s.delay := rfl
@[simp] theorem setBits_frameCount (s : State) (acc nb : Nat) : (s.setBits acc nb).frameCount = s.frameCount := rfl
@[simp] theorem setBits_frameW (s : State) (acc nb : Nat) : (s.setBits acc nb).frameW = s.frameW := rfl
@[simp] theorem setBits_frameH (s : State) (acc nb : Nat) : (s.setBits acc nb).frameH = s.frameH := rfl
@[simp] theorem setBits_framesDone (s : State) (acc nb : Nat) : (s.setBits acc nb).framesDone = s.framesDone := rfl
@[simp] theorem setBits_outLen (s : State) (acc nb : Nat) : (s.setBits acc nb).outLen = s.outLen := rfl
@[simp] theorem setBits_smpCount (s : State) (acc nb : Nat) : (s.setBits acc nb).smpCount = s.smpCount := rfl
@[simp] theorem setBits_bktCount (s : State) (acc nb : Nat) : (s.setBits acc nb).bktCount = s.bktCount := rfl
@[simp] theorem setBits_idxLen (s : State) (acc nb : Nat) : (s.setBits acc nb).idxLen = s.idxLen := rfl
@[simp] theorem setBits_stride (s : State) (acc nb : Nat) : (s.setBits acc nb).stride = s.stride := rfl
@[simp] theorem setBits_curOp (s : State) (acc nb : Nat) : (s.setBits acc nb).curOp = s.curOp := rfl
@[simp] theorem setBits_lzw (s : State) (acc nb : Nat) : (s.setBits acc nb).lzw = s.lzw := rfl
@[simp] theorem setBits_pack (s : State) (acc nb : Nat) :
    (s.setBits acc nb).pack = { s.pack with acc := acc, nb := nb } := rfl
@[simp] theorem setBits_bkt (s : State) (acc nb : Nat) : (s.setBits acc nb).bkt = s.bkt := rfl
@[simp] theorem setBits_fb (s : State) (acc nb : Nat) : (s.setBits acc nb).fb = s.fb := rfl
@[simp] theorem setBits_smp (s : State) (acc nb : Nat) : (s.setBits acc nb).smp = s.smp := rfl
@[simp] theorem setBits_pal (s : State) (acc nb : Nat) : (s.setBits acc nb).pal = s.pal := rfl
@[simp] theorem setBits_idx (s : State) (acc nb : Nat) : (s.setBits acc nb).idx = s.idx := rfl
@[simp] theorem setBits_out (s : State) (acc nb : Nat) : (s.setBits acc nb).out = s.out := rfl
@[simp] theorem setBits_queue (s : State) (acc nb : Nat) : (s.setBits acc nb).queue = s.queue := rfl
@[simp] theorem setBits_rdata (s : State) (acc nb : Nat) : (s.setBits acc nb).rdata = s.rdata := rfl
@[simp] theorem setBits_draws (s : State) (acc nb : Nat) : (s.setBits acc nb).draws = s.draws := rfl

@[simp] theorem packInit_params (s : State) : (packInit s).params = s.params := rfl
@[simp] theorem packInit_busy (s : State) : (packInit s).busy = s.busy := rfl
@[simp] theorem packInit_cancelReq (s : State) : (packInit s).cancelReq = s.cancelReq := rfl
@[simp] theorem packInit_cmdRej (s : State) : (packInit s).cmdRej = s.cmdRej := rfl
@[simp] theorem packInit_phase (s : State) : (packInit s).phase = s.phase := rfl
@[simp] theorem packInit_errCode (s : State) : (packInit s).errCode = s.errCode := rfl
@[simp] theorem packInit_errFrame (s : State) : (packInit s).errFrame = s.errFrame := rfl
@[simp] theorem packInit_width (s : State) : (packInit s).width = s.width := rfl
@[simp] theorem packInit_height (s : State) : (packInit s).height = s.height := rfl
@[simp] theorem packInit_delay (s : State) : (packInit s).delay = s.delay := rfl
@[simp] theorem packInit_frameCount (s : State) : (packInit s).frameCount = s.frameCount := rfl
@[simp] theorem packInit_frameW (s : State) : (packInit s).frameW = s.frameW := rfl
@[simp] theorem packInit_frameH (s : State) : (packInit s).frameH = s.frameH := rfl
@[simp] theorem packInit_framesDone (s : State) : (packInit s).framesDone = s.framesDone := rfl
@[simp] theorem packInit_outLen (s : State) : (packInit s).outLen = s.outLen := rfl
@[simp] theorem packInit_smpCount (s : State) : (packInit s).smpCount = s.smpCount := rfl
@[simp] theorem packInit_bktCount (s : State) : (packInit s).bktCount = s.bktCount := rfl
@[simp] theorem packInit_idxLen (s : State) : (packInit s).idxLen = s.idxLen := rfl
@[simp] theorem packInit_stride (s : State) : (packInit s).stride = s.stride := rfl
@[simp] theorem packInit_curOp (s : State) : (packInit s).curOp = s.curOp := rfl
@[simp] theorem packInit_lzw (s : State) : (packInit s).lzw = s.lzw := rfl
@[simp] theorem packInit_pack (s : State) : (packInit s).pack = { acc := 0, nb := 0, blk := [] } := rfl
@[simp] theorem packInit_bkt (s : State) : (packInit s).bkt = s.bkt := rfl
@[simp] theorem packInit_fb (s : State) : (packInit s).fb = s.fb := rfl
@[simp] theorem packInit_smp (s : State) : (packInit s).smp = s.smp := rfl
@[simp] theorem packInit_pal (s : State) : (packInit s).pal = s.pal := rfl
@[simp] theorem packInit_idx (s : State) : (packInit s).idx = s.idx := rfl
@[simp] theorem packInit_out (s : State) : (packInit s).out = s.out := rfl
@[simp] theorem packInit_queue (s : State) : (packInit s).queue = s.queue := rfl
@[simp] theorem packInit_rdata (s : State) : (packInit s).rdata = s.rdata := rfl
@[simp] theorem packInit_draws (s : State) : (packInit s).draws = s.draws := rfl

/-! Writing a memory changes that memory alone. -/

@[simp] theorem setMem_params (s : State) (sp : Space) (m : Memory) : (s.setMem sp m).params = s.params := by
  cases sp <;> rfl
@[simp] theorem setBytes_params (s : State) (sp : Space) (a : Nat) (l : List Byte) : (s.setBytes sp a l).params = s.params :=
  setMem_params _ _ _
@[simp] theorem setByte_params (s : State) (sp : Space) (a : Nat) (b : Byte) : (s.setByte sp a b).params = s.params :=
  setMem_params _ _ _
@[simp] theorem setMem_busy (s : State) (sp : Space) (m : Memory) : (s.setMem sp m).busy = s.busy := by
  cases sp <;> rfl
@[simp] theorem setBytes_busy (s : State) (sp : Space) (a : Nat) (l : List Byte) : (s.setBytes sp a l).busy = s.busy :=
  setMem_busy _ _ _
@[simp] theorem setByte_busy (s : State) (sp : Space) (a : Nat) (b : Byte) : (s.setByte sp a b).busy = s.busy :=
  setMem_busy _ _ _
@[simp] theorem setMem_cancelReq (s : State) (sp : Space) (m : Memory) : (s.setMem sp m).cancelReq = s.cancelReq := by
  cases sp <;> rfl
@[simp] theorem setBytes_cancelReq (s : State) (sp : Space) (a : Nat) (l : List Byte) : (s.setBytes sp a l).cancelReq = s.cancelReq :=
  setMem_cancelReq _ _ _
@[simp] theorem setByte_cancelReq (s : State) (sp : Space) (a : Nat) (b : Byte) : (s.setByte sp a b).cancelReq = s.cancelReq :=
  setMem_cancelReq _ _ _
@[simp] theorem setMem_cmdRej (s : State) (sp : Space) (m : Memory) : (s.setMem sp m).cmdRej = s.cmdRej := by
  cases sp <;> rfl
@[simp] theorem setBytes_cmdRej (s : State) (sp : Space) (a : Nat) (l : List Byte) : (s.setBytes sp a l).cmdRej = s.cmdRej :=
  setMem_cmdRej _ _ _
@[simp] theorem setByte_cmdRej (s : State) (sp : Space) (a : Nat) (b : Byte) : (s.setByte sp a b).cmdRej = s.cmdRej :=
  setMem_cmdRej _ _ _
@[simp] theorem setMem_phase (s : State) (sp : Space) (m : Memory) : (s.setMem sp m).phase = s.phase := by
  cases sp <;> rfl
@[simp] theorem setBytes_phase (s : State) (sp : Space) (a : Nat) (l : List Byte) : (s.setBytes sp a l).phase = s.phase :=
  setMem_phase _ _ _
@[simp] theorem setByte_phase (s : State) (sp : Space) (a : Nat) (b : Byte) : (s.setByte sp a b).phase = s.phase :=
  setMem_phase _ _ _
@[simp] theorem setMem_errCode (s : State) (sp : Space) (m : Memory) : (s.setMem sp m).errCode = s.errCode := by
  cases sp <;> rfl
@[simp] theorem setBytes_errCode (s : State) (sp : Space) (a : Nat) (l : List Byte) : (s.setBytes sp a l).errCode = s.errCode :=
  setMem_errCode _ _ _
@[simp] theorem setByte_errCode (s : State) (sp : Space) (a : Nat) (b : Byte) : (s.setByte sp a b).errCode = s.errCode :=
  setMem_errCode _ _ _
@[simp] theorem setMem_errFrame (s : State) (sp : Space) (m : Memory) : (s.setMem sp m).errFrame = s.errFrame := by
  cases sp <;> rfl
@[simp] theorem setBytes_errFrame (s : State) (sp : Space) (a : Nat) (l : List Byte) : (s.setBytes sp a l).errFrame = s.errFrame :=
  setMem_errFrame _ _ _
@[simp] theorem setByte_errFrame (s : State) (sp : Space) (a : Nat) (b : Byte) : (s.setByte sp a b).errFrame = s.errFrame :=
  setMem_errFrame _ _ _
@[simp] theorem setMem_width (s : State) (sp : Space) (m : Memory) : (s.setMem sp m).width = s.width := by
  cases sp <;> rfl
@[simp] theorem setBytes_width (s : State) (sp : Space) (a : Nat) (l : List Byte) : (s.setBytes sp a l).width = s.width :=
  setMem_width _ _ _
@[simp] theorem setByte_width (s : State) (sp : Space) (a : Nat) (b : Byte) : (s.setByte sp a b).width = s.width :=
  setMem_width _ _ _
@[simp] theorem setMem_height (s : State) (sp : Space) (m : Memory) : (s.setMem sp m).height = s.height := by
  cases sp <;> rfl
@[simp] theorem setBytes_height (s : State) (sp : Space) (a : Nat) (l : List Byte) : (s.setBytes sp a l).height = s.height :=
  setMem_height _ _ _
@[simp] theorem setByte_height (s : State) (sp : Space) (a : Nat) (b : Byte) : (s.setByte sp a b).height = s.height :=
  setMem_height _ _ _
@[simp] theorem setMem_delay (s : State) (sp : Space) (m : Memory) : (s.setMem sp m).delay = s.delay := by
  cases sp <;> rfl
@[simp] theorem setBytes_delay (s : State) (sp : Space) (a : Nat) (l : List Byte) : (s.setBytes sp a l).delay = s.delay :=
  setMem_delay _ _ _
@[simp] theorem setByte_delay (s : State) (sp : Space) (a : Nat) (b : Byte) : (s.setByte sp a b).delay = s.delay :=
  setMem_delay _ _ _
@[simp] theorem setMem_frameCount (s : State) (sp : Space) (m : Memory) : (s.setMem sp m).frameCount = s.frameCount := by
  cases sp <;> rfl
@[simp] theorem setBytes_frameCount (s : State) (sp : Space) (a : Nat) (l : List Byte) : (s.setBytes sp a l).frameCount = s.frameCount :=
  setMem_frameCount _ _ _
@[simp] theorem setByte_frameCount (s : State) (sp : Space) (a : Nat) (b : Byte) : (s.setByte sp a b).frameCount = s.frameCount :=
  setMem_frameCount _ _ _
@[simp] theorem setMem_frameW (s : State) (sp : Space) (m : Memory) : (s.setMem sp m).frameW = s.frameW := by
  cases sp <;> rfl
@[simp] theorem setBytes_frameW (s : State) (sp : Space) (a : Nat) (l : List Byte) : (s.setBytes sp a l).frameW = s.frameW :=
  setMem_frameW _ _ _
@[simp] theorem setByte_frameW (s : State) (sp : Space) (a : Nat) (b : Byte) : (s.setByte sp a b).frameW = s.frameW :=
  setMem_frameW _ _ _
@[simp] theorem setMem_frameH (s : State) (sp : Space) (m : Memory) : (s.setMem sp m).frameH = s.frameH := by
  cases sp <;> rfl
@[simp] theorem setBytes_frameH (s : State) (sp : Space) (a : Nat) (l : List Byte) : (s.setBytes sp a l).frameH = s.frameH :=
  setMem_frameH _ _ _
@[simp] theorem setByte_frameH (s : State) (sp : Space) (a : Nat) (b : Byte) : (s.setByte sp a b).frameH = s.frameH :=
  setMem_frameH _ _ _
@[simp] theorem setMem_framesDone (s : State) (sp : Space) (m : Memory) : (s.setMem sp m).framesDone = s.framesDone := by
  cases sp <;> rfl
@[simp] theorem setBytes_framesDone (s : State) (sp : Space) (a : Nat) (l : List Byte) : (s.setBytes sp a l).framesDone = s.framesDone :=
  setMem_framesDone _ _ _
@[simp] theorem setByte_framesDone (s : State) (sp : Space) (a : Nat) (b : Byte) : (s.setByte sp a b).framesDone = s.framesDone :=
  setMem_framesDone _ _ _
@[simp] theorem setMem_outLen (s : State) (sp : Space) (m : Memory) : (s.setMem sp m).outLen = s.outLen := by
  cases sp <;> rfl
@[simp] theorem setBytes_outLen (s : State) (sp : Space) (a : Nat) (l : List Byte) : (s.setBytes sp a l).outLen = s.outLen :=
  setMem_outLen _ _ _
@[simp] theorem setByte_outLen (s : State) (sp : Space) (a : Nat) (b : Byte) : (s.setByte sp a b).outLen = s.outLen :=
  setMem_outLen _ _ _
@[simp] theorem setMem_smpCount (s : State) (sp : Space) (m : Memory) : (s.setMem sp m).smpCount = s.smpCount := by
  cases sp <;> rfl
@[simp] theorem setBytes_smpCount (s : State) (sp : Space) (a : Nat) (l : List Byte) : (s.setBytes sp a l).smpCount = s.smpCount :=
  setMem_smpCount _ _ _
@[simp] theorem setByte_smpCount (s : State) (sp : Space) (a : Nat) (b : Byte) : (s.setByte sp a b).smpCount = s.smpCount :=
  setMem_smpCount _ _ _
@[simp] theorem setMem_bktCount (s : State) (sp : Space) (m : Memory) : (s.setMem sp m).bktCount = s.bktCount := by
  cases sp <;> rfl
@[simp] theorem setBytes_bktCount (s : State) (sp : Space) (a : Nat) (l : List Byte) : (s.setBytes sp a l).bktCount = s.bktCount :=
  setMem_bktCount _ _ _
@[simp] theorem setByte_bktCount (s : State) (sp : Space) (a : Nat) (b : Byte) : (s.setByte sp a b).bktCount = s.bktCount :=
  setMem_bktCount _ _ _
@[simp] theorem setMem_idxLen (s : State) (sp : Space) (m : Memory) : (s.setMem sp m).idxLen = s.idxLen := by
  cases sp <;> rfl
@[simp] theorem setBytes_idxLen (s : State) (sp : Space) (a : Nat) (l : List Byte) : (s.setBytes sp a l).idxLen = s.idxLen :=
  setMem_idxLen _ _ _
@[simp] theorem setByte_idxLen (s : State) (sp : Space) (a : Nat) (b : Byte) : (s.setByte sp a b).idxLen = s.idxLen :=
  setMem_idxLen _ _ _
@[simp] theorem setMem_stride (s : State) (sp : Space) (m : Memory) : (s.setMem sp m).stride = s.stride := by
  cases sp <;> rfl
@[simp] theorem setBytes_stride (s : State) (sp : Space) (a : Nat) (l : List Byte) : (s.setBytes sp a l).stride = s.stride :=
  setMem_stride _ _ _
@[simp] theorem setByte_stride (s : State) (sp : Space) (a : Nat) (b : Byte) : (s.setByte sp a b).stride = s.stride :=
  setMem_stride _ _ _
@[simp] theorem setMem_curOp (s : State) (sp : Space) (m : Memory) : (s.setMem sp m).curOp = s.curOp := by
  cases sp <;> rfl
@[simp] theorem setBytes_curOp (s : State) (sp : Space) (a : Nat) (l : List Byte) : (s.setBytes sp a l).curOp = s.curOp :=
  setMem_curOp _ _ _
@[simp] theorem setByte_curOp (s : State) (sp : Space) (a : Nat) (b : Byte) : (s.setByte sp a b).curOp = s.curOp :=
  setMem_curOp _ _ _
@[simp] theorem setMem_lzw (s : State) (sp : Space) (m : Memory) : (s.setMem sp m).lzw = s.lzw := by
  cases sp <;> rfl
@[simp] theorem setBytes_lzw (s : State) (sp : Space) (a : Nat) (l : List Byte) : (s.setBytes sp a l).lzw = s.lzw :=
  setMem_lzw _ _ _
@[simp] theorem setByte_lzw (s : State) (sp : Space) (a : Nat) (b : Byte) : (s.setByte sp a b).lzw = s.lzw :=
  setMem_lzw _ _ _
@[simp] theorem setMem_pack (s : State) (sp : Space) (m : Memory) : (s.setMem sp m).pack = s.pack := by
  cases sp <;> rfl
@[simp] theorem setBytes_pack (s : State) (sp : Space) (a : Nat) (l : List Byte) : (s.setBytes sp a l).pack = s.pack :=
  setMem_pack _ _ _
@[simp] theorem setByte_pack (s : State) (sp : Space) (a : Nat) (b : Byte) : (s.setByte sp a b).pack = s.pack :=
  setMem_pack _ _ _
@[simp] theorem setMem_bkt (s : State) (sp : Space) (m : Memory) : (s.setMem sp m).bkt = s.bkt := by
  cases sp <;> rfl
@[simp] theorem setBytes_bkt (s : State) (sp : Space) (a : Nat) (l : List Byte) : (s.setBytes sp a l).bkt = s.bkt :=
  setMem_bkt _ _ _
@[simp] theorem setByte_bkt (s : State) (sp : Space) (a : Nat) (b : Byte) : (s.setByte sp a b).bkt = s.bkt :=
  setMem_bkt _ _ _
@[simp] theorem setMem_queue (s : State) (sp : Space) (m : Memory) : (s.setMem sp m).queue = s.queue := by
  cases sp <;> rfl
@[simp] theorem setBytes_queue (s : State) (sp : Space) (a : Nat) (l : List Byte) : (s.setBytes sp a l).queue = s.queue :=
  setMem_queue _ _ _
@[simp] theorem setByte_queue (s : State) (sp : Space) (a : Nat) (b : Byte) : (s.setByte sp a b).queue = s.queue :=
  setMem_queue _ _ _
@[simp] theorem setMem_rdata (s : State) (sp : Space) (m : Memory) : (s.setMem sp m).rdata = s.rdata := by
  cases sp <;> rfl
@[simp] theorem setBytes_rdata (s : State) (sp : Space) (a : Nat) (l : List Byte) : (s.setBytes sp a l).rdata = s.rdata :=
  setMem_rdata _ _ _
@[simp] theorem setByte_rdata (s : State) (sp : Space) (a : Nat) (b : Byte) : (s.setByte sp a b).rdata = s.rdata :=
  setMem_rdata _ _ _
@[simp] theorem setMem_draws (s : State) (sp : Space) (m : Memory) : (s.setMem sp m).draws = s.draws := by
  cases sp <;> rfl
@[simp] theorem setBytes_draws (s : State) (sp : Space) (a : Nat) (l : List Byte) : (s.setBytes sp a l).draws = s.draws :=
  setMem_draws _ _ _
@[simp] theorem setByte_draws (s : State) (sp : Space) (a : Nat) (b : Byte) : (s.setByte sp a b).draws = s.draws :=
  setMem_draws _ _ _

@[simp] theorem mem_setMem (s : State) (sp : Space) (m : Memory) : (s.setMem sp m).mem sp = m := by
  cases sp <;> rfl

theorem mem_setMem_of_ne (s : State) (sp sp' : Space) (m : Memory) (h : sp' ≠ sp) :
    (s.setMem sp m).mem sp' = s.mem sp' := by
  cases sp <;> cases sp' <;> first | rfl | exact absurd rfl h

theorem mem_setBytes_of_ne (s : State) (sp sp' : Space) (a : Nat) (l : List Byte) (h : sp' ≠ sp) :
    (s.setBytes sp a l).mem sp' = s.mem sp' :=
  mem_setMem_of_ne s sp sp' _ h

@[simp] theorem setMem_eq_of_mem (s : State) (sp : Space) : s.setMem sp (s.mem sp) = s := by
  cases sp <;> rfl

/-! ### The bounds of what error entry leaves unspecified (rules R39, R46) -/

theorem freeBktCount_le (s : State) : freeBktCount s ≤ 256 := Nat.le_of_lt_succ (Nat.mod_lt _ (by decide))

theorem freeBucket_start_le (s : State) (b : Nat) : (freeBucket s b).start ≤ s.params.sampleBudget :=
  Nat.le_of_lt_succ (Nat.mod_lt _ (Nat.succ_pos _))

theorem freeBucket_len_le (s : State) (b : Nat) : (freeBucket s b).len ≤ s.params.sampleBudget :=
  Nat.le_of_lt_succ (Nat.mod_lt _ (Nat.succ_pos _))

/-- After an error BKT holds as many entries as BKT_COUNT says. -/
theorem errorEntry_bkt_length (k : ErrCode) (s : State) :
    (errorEntry k s).bkt.length = (errorEntry k s).bktCount.toNat := by
  have h := freeBktCount_le s
  simp only [errorEntry_bkt, errorEntry_bktCount, List.length_map, List.length_range, BitVec.toNat_ofNat]
  omega

end Sys2Proof.Machine
end

