-- ==== Sys2Proof/Laws/Memory.lean ====
section
/-! SUPPORT. Memories: a read after a write, and the canonical form that every memory operation keeps. -/

namespace Sys2Proof.Machine

/-! ### A read after a write -/

theorem lookupCell_insertCell (a x : Nat) (b : Byte) (l : List Host.Cell) :
    lookupCell (insertCell a b l) x = if a = x then some b else lookupCell l x := by
  induction l with
  | nil => rfl
  | cons c t ih =>
    obtain ⟨a', b'⟩ := c
    simp only [insertCell]
    split
    · simp [lookupCell]
    · split
      · subst a'
        by_cases h : a = x <;> simp [lookupCell, h]
      · by_cases h : a' = x
        · simp [lookupCell, h]
          intro h'
          omega
        · simp [lookupCell, h, ih]

theorem lookupCell_append (l₁ l₂ : List Host.Cell) (x : Nat) :
    lookupCell (l₁ ++ l₂) x = (lookupCell l₁ x).or (lookupCell l₂ x) := by
  induction l₁ with
  | nil => simp [lookupCell]
  | cons c t ih =>
    obtain ⟨a, b⟩ := c
    by_cases h : a = x <;> simp [lookupCell, h, ih]

theorem lookupCell_filter (p : Nat → Bool) (l : List Host.Cell) (x : Nat) :
    lookupCell (l.filter fun c => p c.1) x = if p x then lookupCell l x else none := by
  induction l with
  | nil => simp [lookupCell]
  | cons c t ih =>
    obtain ⟨a, b⟩ := c
    by_cases h : a = x
    · subst a
      by_cases hp : p x <;> simp_all [lookupCell]
    · by_cases hp : p a <;> simp [lookupCell, h, hp, ih]

theorem lookupCell_cellsFrom (bs : List Byte) (a x : Nat) :
    lookupCell (cellsFrom a bs) x = if a ≤ x then bs[x - a]? else none := by
  induction bs generalizing a with
  | nil => simp [cellsFrom, lookupCell]
  | cons b t ih =>
    rw [cellsFrom, lookupCell, ih]
    by_cases h : a = x
    · simp [h]
    · by_cases h' : a ≤ x
      · have hx : x - a = (x - (a + 1)) + 1 := by omega
        have h1 : a + 1 ≤ x := by omega
        rw [if_neg h, if_pos h1, if_pos h', hx, List.getElem?_cons_succ]
      · have h1 : ¬ a + 1 ≤ x := by omega
        simp [h, h', h1]

@[simp] theorem Memory.read_write (sp : Space) (m : Memory) (a x : Nat) (b : Byte) :
    (m.write a b).read sp x = if a = x then b else m.read sp x := by
  simp only [Memory.read, Memory.write, lookupCell_insertCell]
  split <;> rfl

@[simp] theorem Memory.writeBytes_nil (m : Memory) (a : Nat) : m.writeBytes a [] = m := rfl

theorem Memory.writeBytes_of_ne_nil (m : Memory) (a : Nat) {bs : List Byte} (h : bs ≠ []) :
    m.writeBytes a bs =
      { m with
        cells := m.cells.filter (fun c => decide (c.1 < a)) ++ cellsFrom a bs ++
          m.cells.filter (fun c => decide (a + bs.length ≤ c.1)) } :=
  if_neg h

/-- Bytes written at consecutive offsets read back; every other byte is as before. -/
theorem Memory.read_writeBytes (sp : Space) (m : Memory) (a x : Nat) (bs : List Byte) :
    (m.writeBytes a bs).read sp x = if a ≤ x ∧ x < a + bs.length then bs[x - a]?.getD 0 else m.read sp x := by
  by_cases hnil : bs = []
  · subst hnil
    simp
  simp only [Memory.read, Memory.writeBytes_of_ne_nil _ _ hnil, lookupCell_append, lookupCell_cellsFrom,
    lookupCell_filter (fun c => decide (c < a)), lookupCell_filter (fun c => decide (a + bs.length ≤ c)),
    decide_eq_true_eq]
  by_cases h1 : a ≤ x
  · by_cases h2 : x < a + bs.length
    · have h3 : x - a < bs.length := by omega
      have h4 : ¬ x < a := by omega
      simp [h1, h2, h4, List.getElem?_eq_getElem h3]
    · have h3 : ¬ x < a := by omega
      have h4 : a + bs.length ≤ x := by omega
      have h5 : bs[x - a]? = none := List.getElem?_eq_none (by omega)
      simp [h1, h2, h3, h4, h5]
  · have h3 : x < a := by omega
    have h4 : ¬ a + bs.length ≤ x := by omega
    simp [h1, h3, h4]

theorem byte_setBytes (s : State) (sp : Space) (a x : Nat) (bs : List Byte) :
    (s.setBytes sp a bs).byte sp x =
      if a ≤ x ∧ x < a + bs.length then bs[x - a]?.getD 0 else s.byte sp x := by
  simp [State.byte, State.setBytes, Memory.read_writeBytes]

theorem byte_setBytes_of_ne (s : State) (sp sp' : Space) (a x : Nat) (bs : List Byte) (h : sp' ≠ sp) :
    (s.setBytes sp a bs).byte sp' x = s.byte sp' x := by
  simp [State.byte, mem_setBytes_of_ne _ _ _ _ _ h]

theorem byte_setByte (s : State) (sp : Space) (a x : Nat) (b : Byte) :
    (s.setByte sp a b).byte sp x = if a = x then b else s.byte sp x := by
  simp [State.byte, State.setByte]

theorem byte_setByte_of_ne (s : State) (sp sp' : Space) (a x : Nat) (b : Byte) (h : sp' ≠ sp) :
    (s.setByte sp a b).byte sp' x = s.byte sp' x := by
  simp [State.byte, State.setByte, mem_setMem_of_ne _ _ _ _ h]

theorem cellsFrom_append (bs cs : List Byte) (a : Nat) :
    cellsFrom a (bs ++ cs) = cellsFrom a bs ++ cellsFrom (a + bs.length) cs := by
  induction bs generalizing a with
  | nil => rfl
  | cons b t ih =>
    have h : a + 1 + t.length = a + (t.length + 1) := by omega
    simp [cellsFrom, ih, h]

theorem mem_cellsFrom {bs : List Byte} {a : Nat} {c : Host.Cell} (h : c ∈ cellsFrom a bs) :
    a ≤ c.1 ∧ c.1 < a + bs.length := by
  induction bs generalizing a with
  | nil => simp [cellsFrom] at h
  | cons b t ih =>
    rcases List.mem_cons.mp h with rfl | h
    · simp
    · have := ih h
      simp
      omega

/-- Writing two runs one behind the other is writing them as one. -/
theorem Memory.writeBytes_append (m : Memory) (a : Nat) (bs cs : List Byte) :
    (m.writeBytes a bs).writeBytes (a + bs.length) cs = m.writeBytes a (bs ++ cs) := by
  by_cases hb : bs = []
  · simp [hb]
  by_cases hc : cs = []
  · simp [hc]
  have low : ∀ l : List Host.Cell,
      (l.filter fun c => decide (c.1 < a)).filter (fun c => decide (c.1 < a + bs.length)) =
        l.filter fun c => decide (c.1 < a) := by
    intro l
    rw [List.filter_filter]
    refine List.filter_congr fun c _ => ?_
    by_cases h : c.1 < a
    · have : c.1 < a + bs.length := by omega
      simp [h, this]
    · simp [h]
  have lowNone : ∀ l : List Host.Cell,
      (l.filter fun c => decide (c.1 < a)).filter (fun c => decide (a + bs.length + cs.length ≤ c.1)) = [] := by
    intro l
    refine List.filter_eq_nil_iff.mpr fun c hc => ?_
    have := (List.mem_filter.mp hc).2
    simp at this ⊢
    omega
  have runAll : (cellsFrom a bs).filter (fun c => decide (c.1 < a + bs.length)) = cellsFrom a bs := by
    refine List.filter_eq_self.mpr fun c hc => ?_
    simpa using (mem_cellsFrom hc).2
  have runNone : (cellsFrom a bs).filter (fun c => decide (a + bs.length + cs.length ≤ c.1)) = [] := by
    refine List.filter_eq_nil_iff.mpr fun c hc => ?_
    have := (mem_cellsFrom hc).2
    simp
    omega
  have highNone : ∀ l : List Host.Cell,
      (l.filter fun c => decide (a + bs.length ≤ c.1)).filter (fun c => decide (c.1 < a + bs.length)) = [] := by
    intro l
    refine List.filter_eq_nil_iff.mpr fun c hc => ?_
    have := (List.mem_filter.mp hc).2
    simp at this ⊢
    omega
  have high : ∀ l : List Host.Cell,
      (l.filter fun c => decide (a + bs.length ≤ c.1)).filter
          (fun c => decide (a + bs.length + cs.length ≤ c.1)) =
        l.filter fun c => decide (a + (bs.length + cs.length) ≤ c.1) := by
    intro l
    rw [List.filter_filter]
    refine List.filter_congr fun c _ => ?_
    by_cases h : a + (bs.length + cs.length) ≤ c.1
    · have h1 : a + bs.length ≤ c.1 := by omega
      have h2 : a + bs.length + cs.length ≤ c.1 := by omega
      simp [h, h1, h2]
    · have h2 : ¬ a + bs.length + cs.length ≤ c.1 := by omega
      simp [h, h2]
  rw [Memory.writeBytes_of_ne_nil _ _ hb, Memory.writeBytes_of_ne_nil _ _ hc,
    Memory.writeBytes_of_ne_nil _ _ (by simp [hb])]
  simp only [List.filter_append, low, lowNone, runAll, runNone, highNone, high,
    cellsFrom_append, List.length_append, List.nil_append, List.append_nil, List.append_assoc]

/-! ### The canonical form -/

theorem risingAbove_mono {lo lo' : Nat} {l : List Host.Cell} (h : lo ≤ lo') (hl : risingAbove lo' l = true) :
    risingAbove lo l = true := by
  cases l with
  | nil => rfl
  | cons c t =>
    simp only [risingAbove, Bool.and_eq_true, decide_eq_true_eq] at hl ⊢
    exact ⟨by omega, hl.2⟩

theorem risingAbove_filter {lo : Nat} {l : List Host.Cell} (p : Host.Cell → Bool) (hl : risingAbove lo l = true) :
    risingAbove lo (l.filter p) = true := by
  induction l generalizing lo with
  | nil => exact hl
  | cons c t ih =>
    obtain ⟨a, b⟩ := c
    simp only [risingAbove, Bool.and_eq_true, decide_eq_true_eq] at hl
    by_cases h : p (a, b)
    · simp [h, risingAbove, hl.1, ih hl.2]
    · simp only [List.filter_cons, h]
      exact risingAbove_mono (by omega) (ih hl.2)

theorem risingAbove_append {lo mid : Nat} {l r : List Host.Cell} (hl : risingAbove lo l = true)
    (hle : lo ≤ mid) (hlt : ∀ c ∈ l, c.1 ≤ mid) (hr : risingAbove mid r = true) :
    risingAbove lo (l ++ r) = true := by
  induction l generalizing lo with
  | nil => exact risingAbove_mono hle hr
  | cons c t ih =>
    obtain ⟨a, b⟩ := c
    simp only [risingAbove, Bool.and_eq_true, decide_eq_true_eq, List.cons_append] at hl ⊢
    exact ⟨hl.1, ih hl.2 (hlt (a, b) (by simp)) fun c hc => hlt c (by simp [hc])⟩

theorem risingAbove_cellsFrom (bs : List Byte) {lo a : Nat} (h : lo < a) :
    risingAbove lo (cellsFrom a bs) = true := by
  induction bs generalizing lo a with
  | nil => rfl
  | cons b t ih => simp [cellsFrom, risingAbove, h, ih]

theorem risingAbove_insertCell {lo a : Nat} (b : Byte) {l : List Host.Cell} (h : lo < a)
    (hl : risingAbove lo l = true) : risingAbove lo (insertCell a b l) = true := by
  induction l generalizing lo with
  | nil => simp [insertCell, risingAbove, h]
  | cons c t ih =>
    obtain ⟨a', b'⟩ := c
    simp only [risingAbove, Bool.and_eq_true, decide_eq_true_eq] at hl
    simp only [insertCell]
    split
    · simp [risingAbove, *]
    · split
      · subst a'
        simp [risingAbove, hl]
      · simp [risingAbove, hl.1, ih (by omega) hl.2]

theorem wf_cons (e a : Nat) (b : Byte) (t : List Host.Cell) :
    (Memory.mk e ((a, b) :: t)).wf = risingAbove a t := rfl

theorem Memory.wf_forget (m : Memory) : m.forget.wf = true := rfl

theorem Memory.wf_unwritten : Memory.unwritten.wf = true := rfl

theorem Memory.wf_write (m : Memory) (a : Nat) (b : Byte) (h : m.wf = true) : (m.write a b).wf = true := by
  obtain ⟨e, l⟩ := m
  cases l with
  | nil => rfl
  | cons c t =>
    obtain ⟨a', b'⟩ := c
    rw [wf_cons] at h
    show (Memory.mk e (insertCell a b ((a', b') :: t))).wf = true
    by_cases h1 : a < a'
    · rw [insertCell, if_pos h1, wf_cons, risingAbove, h]
      simp [h1]
    · by_cases h2 : a = a'
      · rw [insertCell, if_neg h1, if_pos h2, wf_cons, h2, h]
      · rw [insertCell, if_neg h1, if_neg h2, wf_cons]
        exact risingAbove_insertCell b (by omega) h

/-- Three canonical runs of cells, one behind the other, are canonical together. -/
theorem wf_of_parts (e a n : Nat) (low run high : List Host.Cell)
    (hlow : (Memory.mk e low).wf = true) (hrun : (Memory.mk e run).wf = true) (hhigh : (Memory.mk e high).wf = true)
    (blow : ∀ c ∈ low, c.1 < a) (brun : ∀ c ∈ run, a ≤ c.1 ∧ c.1 < a + n) (bhigh : ∀ c ∈ high, a + n ≤ c.1) :
    (Memory.mk e (low ++ run ++ high)).wf = true := by
  have join : ∀ (l r : List Host.Cell), (Memory.mk e l).wf = true → (Memory.mk e r).wf = true →
      (∀ c ∈ l, ∀ d ∈ r, c.1 < d.1) → (Memory.mk e (l ++ r)).wf = true := by
    intro l r hl hr hlr
    cases r with
    | nil => simpa using hl
    | cons d r =>
      cases l with
      | nil => exact hr
      | cons c l =>
        obtain ⟨x, bx⟩ := c
        obtain ⟨y, by'⟩ := d
        have hxy : x < y := hlr (x, bx) (by simp) (y, by') (by simp)
        simp only [Memory.wf, List.cons_append] at hl hr ⊢
        refine risingAbove_append (mid := y - 1) hl (by omega) (fun c hc => ?_) ?_
        · have := hlr c (by simp [hc]) (y, by') (by simp)
          simp at this
          omega
        · simpa [risingAbove, hr] using (by omega : y - 1 < y)
  refine join _ _ (join _ _ hlow hrun ?_) hhigh ?_
  · intro c hc d hd
    have := blow c hc
    have := (brun d hd).1
    omega
  · intro c hc d hd
    have h1 := bhigh d hd
    rcases List.mem_append.mp hc with hc | hc
    · have := blow c hc
      omega
    · have := (brun c hc).2
      omega

theorem wf_filter (e : Nat) (l : List Host.Cell) (p : Host.Cell → Bool) (h : (Memory.mk e l).wf = true) :
    (Memory.mk e (l.filter p)).wf = true := by
  induction l with
  | nil => exact h
  | cons c t ih =>
    obtain ⟨a, b⟩ := c
    have ht : risingAbove a t = true := h
    by_cases hp : p (a, b)
    · simp only [List.filter_cons, hp, if_true]
      exact risingAbove_filter p ht
    · simp only [List.filter_cons, hp]
      refine ih ?_
      cases t with
      | nil => rfl
      | cons d t =>
        simp only [risingAbove, Bool.and_eq_true] at ht
        exact ht.2

theorem wf_cellsFrom (e a : Nat) (bs : List Byte) : (Memory.mk e (cellsFrom a bs)).wf = true := by
  cases bs with
  | nil => rfl
  | cons b t => exact risingAbove_cellsFrom t (by omega)

theorem Memory.wf_writeBytes (m : Memory) (a : Nat) (bs : List Byte) (h : m.wf = true) :
    (m.writeBytes a bs).wf = true := by
  by_cases hnil : bs = []
  · rwa [hnil, Memory.writeBytes_nil]
  rw [Memory.writeBytes_of_ne_nil _ _ hnil]
  obtain ⟨e, l⟩ := m
  refine wf_of_parts e a bs.length _ _ _ (wf_filter e l _ h) (wf_cellsFrom e a bs) (wf_filter e l _ h) ?_ ?_ ?_
  · intro c hc
    simpa using (List.mem_filter.mp hc).2
  · exact fun c hc => mem_cellsFrom hc
  · intro c hc
    simpa using (List.mem_filter.mp hc).2

end Sys2Proof.Machine
end

