-- ==== Sys2Proof/Laws/Output.lean ====
section
/-! SUPPORT. What the procedures that append to OUT can do: an inversion lemma for error propagation, one lemma per
procedure of U4 and U3 that says what it leaves unchanged, and how runs of output join. -/

namespace Sys2Proof.Machine

/-! ### Error propagation -/

@[simp] theorem andThen_ok (s : State) (f : State → Except ErrCode State) : andThen (.ok s) f = f s := rfl

@[simp] theorem andThen_error (e : ErrCode) (f : State → Except ErrCode State) : andThen (.error e) f = .error e := rfl

theorem andThen_eq_ok {r : Except ErrCode State} {f : State → Except ErrCode State} {t : State} :
    andThen r f = .ok t ↔ ∃ s, r = .ok s ∧ f s = .ok t := by
  cases r <;> simp

theorem andThen_eq_error {r : Except ErrCode State} {f : State → Except ErrCode State} {e : ErrCode} :
    andThen r f = .error e ↔ r = .error e ∨ ∃ s, r = .ok s ∧ f s = .error e := by
  cases r <;> simp

theorem andThen_assoc (r : Except ErrCode State) (f g : State → Except ErrCode State) :
    andThen (andThen r f) g = andThen r fun s => andThen (f s) g := by
  cases r <;> rfl

/-! ### Runs of output -/

/-- OUT_LEN is inside OUT, and OUT's size fits the register (rules R8, R46). -/
structure OutFits (s : State) : Prop where
  size : s.params.outCapacity < 2 ^ 32
  len : s.outLen.toNat ≤ s.params.outCapacity

/-- The state with bytes appended to OUT. -/
def appendOut (bs : List Byte) (s : State) : State :=
  { s.setBytes .out s.outLen.toNat bs with outLen := s.outLen + BitVec.ofNat 32 bs.length }

/-- Going from `s` to `t` appended `bs` to OUT and changed nothing else but the encoder's and the packer's
registers. -/
structure Emits (s t : State) (bs : List Byte) : Prop where
  room : s.outLen.toNat + bs.length ≤ s.params.outCapacity
  eq : t = { appendOut bs s with lzw := t.lzw, pack := t.pack }

theorem outBytes_eq (bs : List Byte) (s : State) :
    outBytes bs s =
      if s.outLen.toNat + bs.length ≤ s.params.outCapacity then .ok (appendOut bs s) else .error .outOverflow :=
  rfl

theorem outByte_eq_outBytes {s : State} (h : OutFits s) (b : Byte) : outByte b s = outBytes [b] s := by
  have hl := h.len
  unfold outByte outBytes
  by_cases he : s.outLen.toNat = s.params.outCapacity
  · rw [if_pos he, if_neg (by simp; omega)]
  · rw [if_neg he, if_pos (by simp; omega)]
    rfl

theorem outLen_appendOut {s : State} (h : OutFits s) {bs : List Byte}
    (hr : s.outLen.toNat + bs.length ≤ s.params.outCapacity) :
    (appendOut bs s).outLen.toNat = s.outLen.toNat + bs.length := by
  have hs := h.size
  simp only [appendOut, BitVec.toNat_add, BitVec.toNat_ofNat]
  omega

theorem outFits_appendOut {s : State} (h : OutFits s) {bs : List Byte}
    (hr : s.outLen.toNat + bs.length ≤ s.params.outCapacity) : OutFits (appendOut bs s) where
  size := h.size
  len := by
    rw [outLen_appendOut h hr]
    exact hr

theorem appendOut_appendOut {s : State} (h : OutFits s) {bs cs : List Byte}
    (hr : s.outLen.toNat + bs.length ≤ s.params.outCapacity) :
    appendOut cs (appendOut bs s) = appendOut (bs ++ cs) s := by
  have h1 : (appendOut bs s).outLen.toNat = s.outLen.toNat + bs.length := outLen_appendOut h hr
  have h2 : (appendOut bs s).out = s.out.writeBytes s.outLen.toNat bs := rfl
  have h3 : (appendOut bs s).outLen = s.outLen + BitVec.ofNat 32 bs.length := rfl
  have h4 : appendOut cs (appendOut bs s) =
      { s with out := (s.out.writeBytes s.outLen.toNat bs).writeBytes (appendOut bs s).outLen.toNat cs
               outLen := s.outLen + BitVec.ofNat 32 bs.length + BitVec.ofNat 32 cs.length } := rfl
  have h5 : appendOut (bs ++ cs) s =
      { s with out := s.out.writeBytes s.outLen.toNat (bs ++ cs)
               outLen := s.outLen + BitVec.ofNat 32 (bs ++ cs).length } := rfl
  rw [h4, h5, h1, Memory.writeBytes_append]
  have h6 : BitVec.ofNat 32 (bs ++ cs).length = BitVec.ofNat 32 bs.length + BitVec.ofNat 32 cs.length := by
    rw [List.length_append, BitVec.ofNat_add]
  rw [h6, BitVec.add_assoc]

/-- Appending two runs one after the other is appending them as one (rule R185). -/
theorem outBytes_append {s : State} (h : OutFits s) (bs cs : List Byte) :
    andThen (outBytes bs s) (outBytes cs) = outBytes (bs ++ cs) s := by
  by_cases hr : s.outLen.toNat + bs.length ≤ s.params.outCapacity
  · rw [outBytes_eq bs s, if_pos hr, andThen_ok, outBytes_eq, outBytes_eq, outLen_appendOut h hr,
      appendOut_appendOut h hr]
    have hp : (appendOut bs s).params = s.params := rfl
    simp only [hp, List.length_append, Nat.add_assoc]
  · rw [outBytes_eq bs s, if_neg hr, andThen_error, outBytes_eq, if_neg (by simp; omega)]

/-- `Out(bytes)` is OutByte of each byte in order (rule R185). -/
theorem outBytes_cons {s : State} (h : OutFits s) (b : Byte) (bs : List Byte) :
    outBytes (b :: bs) s = andThen (outByte b s) (outBytes bs) := by
  rw [outByte_eq_outBytes h, outBytes_append h]
  rfl

/-- What OUT holds after a run was appended. -/
theorem output_appendOut {s : State} (h : OutFits s) {bs : List Byte}
    (hr : s.outLen.toNat + bs.length ≤ s.params.outCapacity) :
    (appendOut bs s).output = s.output ++ bs := by
  have hb : ∀ x, (appendOut bs s).byte .out x =
      if s.outLen.toNat ≤ x ∧ x < s.outLen.toNat + bs.length then bs[x - s.outLen.toNat]?.getD 0
      else s.byte .out x := fun x => byte_setBytes s .out _ x bs
  refine List.ext_getElem ?_ fun i h1 h2 => ?_
  · simp [State.output, outLen_appendOut h hr]
  · simp only [State.output, List.length_map, List.length_range, outLen_appendOut h hr] at h1
    by_cases hi : i < s.outLen.toNat
    · rw [List.getElem_append_left (by simpa [State.output] using hi)]
      simp only [State.output, List.getElem_map, List.getElem_range, hb]
      rw [if_neg (by omega)]
    · rw [List.getElem_append_right (by simpa [State.output] using hi)]
      simp only [State.output, List.getElem_map, List.getElem_range, hb, List.length_map, List.length_range]
      have h3 : i - s.outLen.toNat < bs.length := by omega
      rw [if_pos (by omega), List.getElem?_eq_getElem h3, Option.getD_some]

@[simp] theorem appendOut_nil (s : State) : appendOut [] s = s := by
  have h1 : s.setBytes .out s.outLen.toNat [] = s := rfl
  have h2 : s.outLen + BitVec.ofNat 32 ([] : List Byte).length = s.outLen := by simp
  unfold appendOut
  rw [h1, h2]

theorem Emits.outFits {s t : State} {bs : List Byte} (h : Emits s t bs) (hs : OutFits s) : OutFits t := by
  have := outFits_appendOut hs h.room
  rw [h.eq]
  exact ⟨this.size, this.len⟩

theorem Emits.outLen {s t : State} {bs : List Byte} (h : Emits s t bs) (hs : OutFits s) :
    t.outLen.toNat = s.outLen.toNat + bs.length := by
  rw [h.eq]
  exact outLen_appendOut hs h.room

theorem Emits.output {s t : State} {bs : List Byte} (h : Emits s t bs) (hs : OutFits s) :
    t.output = s.output ++ bs := by
  rw [h.eq]
  exact output_appendOut hs h.room

/-- Everything but OUT, OUT_LEN and the encoder's and the packer's registers is unchanged. -/
theorem Emits.frame {s t : State} {bs : List Byte} (h : Emits s t bs) :
    t = { s with outLen := t.outLen, out := t.out, lzw := t.lzw, pack := t.pack } := by
  conv_lhs => rw [h.eq]
  rw [h.eq]
  rfl

/-- Changing the encoder's and the packer's registers appends nothing. -/
theorem Emits.regs {s : State} (h : OutFits s) (l : LzwRegs) (p : PackRegs) :
    Emits s { s with lzw := l, pack := p } [] where
  room := by simpa using h.len
  eq := by rw [appendOut_nil]

theorem Emits.refl {s : State} (h : OutFits s) : Emits s s [] := Emits.regs h s.lzw s.pack

theorem Emits.trans {s t u : State} {bs cs : List Byte} (hs : OutFits s) (h1 : Emits s t bs) (h2 : Emits t u cs) :
    Emits s u (bs ++ cs) where
  room := by
    have hp : t.params = s.params := by rw [h1.eq]; rfl
    have := h2.room
    rw [h1.outLen hs, hp] at this
    simp only [List.length_append]
    omega
  eq := by
    have h3 : appendOut cs t = { appendOut cs (appendOut bs s) with lzw := t.lzw, pack := t.pack } := by
      conv_lhs => rw [h1.eq]
      rfl
    have h4 := h2.eq
    rw [h3, appendOut_appendOut hs h1.room] at h4
    exact h4

/-! ### What each procedure can do -/

/-- A procedure that, when it raises no error, appends to OUT and changes at most the encoder's and the packer's
registers beside. -/
def OnlyEmits (f : State → Except ErrCode State) : Prop :=
  ∀ s t, OutFits s → f s = .ok t → ∃ bs, Emits s t bs

theorem OnlyEmits.andThen {f : State → Except ErrCode State} {g : State → Except ErrCode State}
    (hf : OnlyEmits f) (hg : OnlyEmits g) : OnlyEmits fun s => andThen (f s) g := by
  intro s t hs h
  obtain ⟨u, h1, h2⟩ := andThen_eq_ok.mp h
  obtain ⟨bs, hb⟩ := hf s u hs h1
  obtain ⟨cs, hc⟩ := hg u t (hb.outFits hs) h2
  exact ⟨bs ++ cs, hb.trans hs hc⟩

theorem OnlyEmits.regs (l : State → LzwRegs) (p : State → PackRegs) :
    OnlyEmits fun s => .ok { s with lzw := l s, pack := p s } := by
  intro s t hs h
  cases h
  exact ⟨[], Emits.regs hs _ _⟩

theorem outBytes_ok {bs : List Byte} {s t : State} (h : outBytes bs s = .ok t) :
    t = appendOut bs s ∧ s.outLen.toNat + bs.length ≤ s.params.outCapacity := by
  rw [outBytes_eq] at h
  split at h
  · exact ⟨(Except.ok.inj h).symm, by assumption⟩
  · cases h

theorem outBytes_error {bs : List Byte} {s : State} {e : ErrCode} (h : outBytes bs s = .error e) :
    e = .outOverflow ∧ s.params.outCapacity < s.outLen.toNat + bs.length := by
  rw [outBytes_eq] at h
  split at h
  · cases h
  · exact ⟨(Except.error.inj h).symm, by omega⟩

theorem outBytes_emits {bs : List Byte} {s t : State} (h : outBytes bs s = .ok t) : Emits s t bs := by
  obtain ⟨rfl, hr⟩ := outBytes_ok h
  exact ⟨hr, rfl⟩

theorem onlyEmits_outBytes (bs : List Byte) : OnlyEmits (outBytes bs) :=
  fun _ _ _ h => ⟨bs, outBytes_emits h⟩

theorem onlyEmits_outByte (b : Byte) : OnlyEmits (outByte b) := by
  intro s t hs h
  rw [outByte_eq_outBytes hs] at h
  exact ⟨[b], outBytes_emits h⟩

theorem onlyEmits_outBlk : OnlyEmits outBlk := by
  intro s t hs h
  exact OnlyEmits.andThen (onlyEmits_outBytes _) (OnlyEmits.regs (fun s => s.lzw) fun s => { s.pack with blk := [] })
    s t hs h

theorem onlyEmits_putBlkByte (b : Byte) : OnlyEmits (putBlkByte b) := by
  intro s t hs h
  have hr := Emits.regs hs s.lzw { s.pack with blk := s.pack.blk ++ [b] }
  simp only [putBlkByte] at h
  split at h
  · obtain ⟨bs, hb⟩ := onlyEmits_outBlk _ t (hr.outFits hs) h
    exact ⟨[] ++ bs, hr.trans hs hb⟩
  · cases h
    exact ⟨[], hr⟩

theorem onlyEmits_drainBytes (passes : Nat) : OnlyEmits (drainBytes passes) := by
  induction passes with
  | zero =>
    intro s t hs h
    cases h
    exact ⟨[], Emits.refl hs⟩
  | succ passes ih =>
    intro s t hs h
    rw [drainBytes] at h
    split at h
    · exact OnlyEmits.andThen (onlyEmits_putBlkByte _)
        (OnlyEmits.andThen (OnlyEmits.regs (fun u => u.lzw) fun u =>
          { u.pack with acc := u.pack.acc / 256, nb := u.pack.nb - 8 }) ih) s t hs h
    · cases h
      exact ⟨[], Emits.refl hs⟩

/-- PutCode appends to OUT and changes the packer's registers, nothing else. -/
theorem onlyEmits_putCode (c w : Nat) : OnlyEmits (putCode c w) := by
  intro s t hs h
  have hr := Emits.regs hs s.lzw
    { s.pack with acc := s.pack.acc + c * 2 ^ s.pack.nb, nb := s.pack.nb + w }
  obtain ⟨bs, hb⟩ := onlyEmits_drainBytes _ _ t (hr.outFits hs) h
  exact ⟨[] ++ bs, hr.trans hs hb⟩

theorem onlyEmits_flush : OnlyEmits flush := by
  refine OnlyEmits.andThen (OnlyEmits.andThen ?_ ?_) (onlyEmits_outByte 0)
  · intro s t hs h
    rw [flushBits] at h
    split at h
    · exact OnlyEmits.andThen (onlyEmits_putBlkByte _)
        (OnlyEmits.regs (fun u => u.lzw) fun u => { u.pack with acc := 0, nb := 0 }) s t hs h
    · cases h
      exact ⟨[], Emits.refl hs⟩
  · intro s t hs h
    rw [flushBlk] at h
    split at h
    · exact onlyEmits_outBlk s t hs h
    · cases h
      exact ⟨[], Emits.refl hs⟩

theorem onlyEmits_growDict (sym : Byte) : OnlyEmits (growDict sym) := by
  intro s t hs h
  rw [growDict] at h
  split at h
  · cases h
    exact ⟨[], Emits.regs hs _ s.pack⟩
  · exact OnlyEmits.andThen (onlyEmits_putCode _ _)
      (OnlyEmits.regs (fun u => { u.lzw with dict := [], w := u.lzw.m + 1, next := u.lzw.endCode + 1 })
        fun u => u.pack) s t hs h

theorem onlyEmits_lzwPass (sym : Byte) : OnlyEmits (lzwPass sym) := by
  intro s t hs h
  rw [lzwPass] at h
  split at h
  · cases h
  · split at h
    · cases h
      exact ⟨[], Emits.regs hs _ s.pack⟩
    · exact OnlyEmits.andThen (OnlyEmits.andThen (onlyEmits_putCode _ _) (onlyEmits_growDict sym))
        (OnlyEmits.regs (fun u => { u.lzw with pre := sym.toNat }) fun u => u.pack) s t hs h

theorem onlyEmits_lzwLoop (syms : List Byte) : OnlyEmits (lzwLoop syms) := by
  induction syms with
  | nil =>
    intro s t hs h
    cases h
    exact ⟨[], Emits.refl hs⟩
  | cons sym syms ih => exact OnlyEmits.andThen (onlyEmits_lzwPass sym) ih

theorem onlyEmits_endStream : OnlyEmits endStream := by
  intro s t hs h
  exact OnlyEmits.andThen (onlyEmits_putCode _ _) onlyEmits_flush s t hs h

theorem onlyEmits_encodeSymbols (syms : List Byte) : OnlyEmits (encodeSymbols syms) := by
  cases syms with
  | nil => exact onlyEmits_endStream
  | cons sym syms =>
    intro s t hs h
    rw [encodeSymbols] at h
    split at h
    · cases h
    · have hr := Emits.regs hs { s.lzw with pre := sym.toNat } s.pack
      have htail : OnlyEmits fun u => andThen (putCode u.lzw.pre u.lzw.w u) endStream := by
        intro u v hu h
        exact OnlyEmits.andThen (onlyEmits_putCode _ _) onlyEmits_endStream u v hu h
      obtain ⟨bs, hb⟩ := OnlyEmits.andThen (onlyEmits_lzwLoop syms) htail _ t (hr.outFits hs) h
      exact ⟨[] ++ bs, hr.trans hs hb⟩

theorem onlyEmits_openStream (depth : Nat) : OnlyEmits (openStream depth) := by
  intro s t hs h
  have hr := Emits.regs hs
    { s.lzw with m := minCodeSize depth, clear := 2 ^ minCodeSize depth, endCode := 2 ^ minCodeSize depth + 1 } s.pack
  have htail : OnlyEmits fun u =>
      let v := resetDict (packInit u)
      putCode v.lzw.clear v.lzw.w v := by
    intro u v hu h
    have hi := Emits.regs hu { u.lzw with dict := [], w := u.lzw.m + 1, next := u.lzw.endCode + 1 }
      { acc := 0, nb := 0, blk := [] }
    obtain ⟨bs, hb⟩ := onlyEmits_putCode _ _ _ v (hi.outFits hu) h
    exact ⟨[] ++ bs, hi.trans hu hb⟩
  obtain ⟨bs, hb⟩ := OnlyEmits.andThen (onlyEmits_outByte _) htail _ t (hr.outFits hs) h
  exact ⟨[] ++ bs, hr.trans hs hb⟩

/-- LzwStream appends to OUT and changes the encoder's and the packer's registers, nothing else. -/
theorem onlyEmits_lzwStream (depth n : Nat) : OnlyEmits (lzwStream depth n) := by
  intro s t hs h
  exact OnlyEmits.andThen (onlyEmits_openStream depth) (onlyEmits_encodeSymbols _) s t hs h

theorem onlyEmits_writeHeader (w h : Half) : OnlyEmits (writeHeader w h) :=
  OnlyEmits.andThen (onlyEmits_outBytes _) (OnlyEmits.andThen (onlyEmits_outBytes _) (onlyEmits_outBytes _))

theorem onlyEmits_writeFrame (w h d : Half) : OnlyEmits (writeFrame w h d) := by
  have htable : OnlyEmits fun u => andThen (outBytes (localTable u) u) (imageData w h) := by
    intro u v hu hv
    exact OnlyEmits.andThen (onlyEmits_outBytes _) (onlyEmits_lzwStream _ _) u v hu hv
  exact OnlyEmits.andThen (onlyEmits_outBytes _) (OnlyEmits.andThen (onlyEmits_outBytes _) htable)

theorem onlyEmits_writeTrailer : OnlyEmits writeTrailer := onlyEmits_outByte 0x3B

end Sys2Proof.Machine
end

