-- ==== Sys2Proof/Laws/PerInstr.lean ====
section
/-! SUPPORT. Facts about every command as syntax, one lemma per constructor. -/

namespace Sys2Proof.Laws.EncodedFields

/-- The word of a command has 0 in RSV, the command's opcode in OP, and its operand in ARG (rule R90). -/
def Statement (i : Instr) : Prop :=
  fieldRsv (encode i) = 0 ∧ fieldOp (encode i) = opcode i ∧ fieldArg (encode i) = argument i

theorem nop : Statement .nop := by unfold Statement; decide
theorem begin : Statement .begin := by unfold Statement; decide
theorem frame : Statement .frame := by unfold Statement; decide
theorem cancel : Statement .cancel := by unfold Statement; decide
theorem clear : Statement .clear := by unfold Statement; decide
theorem sample : Statement .sample := by unfold Statement; decide
theorem mcut : Statement .mcut := by unfold Statement; decide
theorem index : Statement .index := by unfold Statement; decide
theorem lzw (depth : BitVec 4) : Statement (.lzw depth) := by
  unfold Statement
  revert depth
  decide

end Sys2Proof.Laws.EncodedFields
end

