-- ==== Sys2Proof/Laws/Sequencer.lean ====
section
/-! SUPPORT. What a step and each command can do: which case of `step` applies, how a command is launched, and the
inversion of completion. -/

namespace Sys2Proof.Machine

/-! ### Steps -/

theorem takeAccess_of_arrives {access : HostAccess} {rest : List HostEvent} {s : State}
    (h : Arrives access rest s) : takeAccess s = some (access, { s with queue := rest }) := by
  obtain ⟨early, hq, hb⟩ := h
  rw [takeAccess, hq]
  cases hbusy : s.busy
  · simp
  · simp [hb hbusy]

/-- When a host access reaches the core, the step is that access. -/
theorem step_of_arrives {access : HostAccess} {rest : List HostEvent} {s : State} (h : Arrives access rest s) :
    step s = perform access { s with queue := rest } := by
  rw [step, takeAccess_of_arrives h]

theorem takeAccess_of_alone {s : State} (hb : s.busy = true) (h : s.overtaken = false) : takeAccess s = none := by
  rw [takeAccess]
  rw [State.overtaken] at h
  split
  · rfl
  · rename_i e rest hq
    rw [hq] at h
    simp only at h
    simp [hb, h]

/-- When the host makes no access in time, the step of a running command is its completion. -/
theorem step_of_completing {s : State} (hb : s.busy = true) (h : s.overtaken = false) :
    step s = .next (complete s) := by
  rw [step, takeAccess_of_alone hb h, proceed, if_pos hb]

theorem step_of_waiting {s : State} (hb : s.busy = false) (h : s.queue = []) : step s = .next s := by
  rw [step, takeAccess, h, proceed, if_neg (by simp [hb])]

/-- Every step is an access of the host, a completion, or a wait. -/
theorem step_cases (s : State) :
    (∃ access rest, Arrives access rest s ∧ step s = perform access { s with queue := rest }) ∨
      (s.busy = true ∧ s.overtaken = false ∧ step s = .next (complete s)) ∨
      (s.busy = false ∧ s.queue = [] ∧ step s = .next s) := by
  by_cases hq : s.queue = []
  · cases hb : s.busy
    · exact .inr (.inr ⟨rfl, hq, step_of_waiting hb hq⟩)
    · have ho : s.overtaken = false := by rw [State.overtaken, hq]
      exact .inr (.inl ⟨rfl, ho, step_of_completing hb ho⟩)
  · obtain ⟨⟨early, access⟩, rest, hq⟩ := List.exists_cons_of_ne_nil hq
    by_cases hb : s.busy = true ∧ early = false
    · have ho : s.overtaken = false := by rw [State.overtaken, hq, hb.2]
      exact .inr (.inl ⟨hb.1, ho, step_of_completing hb.1 ho⟩)
    · have ha : Arrives access rest s := by
        refine ⟨early, hq, fun h => ?_⟩
        cases early
        · exact absurd ⟨h, rfl⟩ hb
        · rfl
      exact .inl ⟨access, rest, ha, step_of_arrives ha⟩

@[simp] theorem perform_commandWrite (w : Word) (s : State) : perform (commandWrite w) s = writeCommand w s := rfl

theorem writeCommand_of_decode {w : Word} {i : Instr} (h : decode w = .ok i) (s : State) :
    writeCommand w s = exec i s := by
  rw [writeCommand, h]

/-! ### Launching a command -/

theorem launchIn_of_ready {phase : Phase} {s : State} (h : Ready phase s) (op : IssuedOp) :
    launchIn phase op s = .next (complete (issue op s)) := by
  rw [launchIn, if_pos ⟨h.idle, h.inPhase⟩, launch, h.alone]
  rfl

theorem launchIn_of_overtaken {phase : Phase} {s : State} (hb : s.busy = false) (hp : s.phase = phase)
    (ho : s.overtaken = true) (op : IssuedOp) : launchIn phase op s = .next (issue op s) := by
  rw [launchIn, if_pos ⟨hb, hp⟩, launch, ho]
  rfl

theorem launchIn_of_illegal {phase : Phase} {s : State} (h : ¬ (s.busy = false ∧ s.phase = phase)) (op : IssuedOp) :
    launchIn phase op s = .next (reject s) := by
  rw [launchIn, if_neg h]

/-- Everything `launchIn` can do. -/
theorem launchIn_cases (phase : Phase) (op : IssuedOp) (s : State) :
    (Ready phase s ∧ launchIn phase op s = .next (complete (issue op s))) ∨
      (s.busy = false ∧ s.phase = phase ∧ s.overtaken = true ∧ launchIn phase op s = .next (issue op s)) ∨
      (¬ (s.busy = false ∧ s.phase = phase) ∧ launchIn phase op s = .next (reject s)) := by
  by_cases h : s.busy = false ∧ s.phase = phase
  · cases ho : s.overtaken
    · exact .inl ⟨⟨h.1, h.2, ho⟩, launchIn_of_ready ⟨h.1, h.2, ho⟩ op⟩
    · exact .inr (.inl ⟨h.1, h.2, rfl, launchIn_of_overtaken h.1 h.2 ho op⟩)
  · exact .inr (.inr ⟨h, launchIn_of_illegal h op⟩)

theorem exec_lzw_of_wf {depth : BitVec 4} (h : (Instr.lzw depth).wf = true) (s : State) :
    exec (.lzw depth) s = launchIn .idle (.lzw depth) s := by
  show execLzw depth s = _
  rw [execLzw, if_pos h]

/-- No command is refused and none faults. -/
theorem exec_is_next (i : Instr) (s : State) : ∃ t, exec i s = .next t := by
  have hl : ∀ phase op, ∃ t, launchIn phase op s = .next t := by
    intro phase op
    rcases launchIn_cases phase op s with ⟨_, h⟩ | ⟨_, _, _, h⟩ | ⟨_, h⟩ <;> exact ⟨_, h⟩
  cases i with
  | nop => simp only [exec, execNop]; split <;> exact ⟨_, rfl⟩
  | begin => exact hl _ _
  | frame => exact hl _ _
  | cancel =>
    simp only [exec, execCancel]
    split
    · split <;> exact ⟨_, rfl⟩
    · split <;> exact ⟨_, rfl⟩
  | clear => simp only [exec, execClear]; split <;> exact ⟨_, rfl⟩
  | sample => exact hl _ _
  | mcut => exact hl _ _
  | index => exact hl _ _
  | lzw depth =>
    simp only [exec, execLzw]
    split
    · exact hl _ _
    · exact ⟨_, rfl⟩

/-- A register write gives a next state. -/
theorem writeCsr_is_next (offset : Nat) (v : Word) (s : State) : ∃ t, writeCsr offset v s = .next t := by
  rw [writeCsr]
  split
  · rw [writeCommand]
    split
    · exact exec_is_next _ s
    · exact ⟨_, rfl⟩
  · exact ⟨_, rfl⟩
  · exact ⟨_, rfl⟩

/-! ### Completion -/

@[simp] theorem conclude_ok (s t : State) : conclude s (.ok t) = { forgetWorking t with busy := false } := rfl

@[simp] theorem conclude_error (s : State) (k : ErrCode) : conclude s (.error k) = errorEntry k s := rfl

/-- The state in which a command's errors are raised, and what its body gives. -/
def bodyOf (s : State) : State × Except ErrCode State :=
  match s.curOp with
  | .begin => (startConversion s, runBegin (startConversion s))
  | .frame => (s, runFrame s)
  | .sample => (s, runSample s)
  | .mcut => (s, runMcut s)
  | .index => (s, runIndex s)
  | .lzw depth => (s, runLzw depth s)

/-- A completion is the success of the command's body, or error entry. -/
theorem complete_cases (s : State) :
    (∃ t, (bodyOf s).2 = .ok t ∧ complete s = { forgetWorking t with busy := false }) ∨
      (∃ k, (bodyOf s).2 = .error k ∧ complete s = errorEntry k (bodyOf s).1) := by
  have h : complete s = conclude (bodyOf s).1 (bodyOf s).2 := by
    rw [complete, bodyOf]
    cases s.curOp <;> rfl
  rw [h]
  cases (bodyOf s).2 with
  | ok t => exact .inl ⟨t, rfl, rfl⟩
  | error k => exact .inr ⟨k, rfl, rfl⟩

/-- BUSY falls at completion, with or without an error (rule R23). -/
theorem complete_busy (s : State) : (complete s).busy = false := by
  rcases complete_cases s with ⟨t, _, h⟩ | ⟨k, _, h⟩ <;> exact h ▸ rfl

end Sys2Proof.Machine
end

