-- ==== Sys2Proof/Tests/Slice0.lean ====
section
/-! SUPPORT. Tests whose expected results are those of 95_test_vectors.md, and for every obligation that has
hypotheses a witness that meets them. -/

namespace Sys2Proof.Tests

open Sys2Proof Sys2Proof.Machine

set_option maxRecDepth 20000

/-! ### Well-formed commands and their words -/

theorem test_wf_refuses_depth_zero : (Instr.lzw 0).wf = false := by decide
theorem test_wf_refuses_depth_nine : (Instr.lzw 9).wf = false := by decide
theorem test_wf_refuses_depth_fifteen : (Instr.lzw 15).wf = false := by decide
theorem test_wf_accepts_depths : ∀ d : BitVec 4, 1 ≤ d.toNat ∧ d.toNat ≤ 8 → (Instr.lzw d).wf = true := by decide

/-! The words of rule R108: RSV (20 bits), ARG (4 bits), OP (8 bits). -/

theorem test_decode_nop : decode 0b00000000000000000000000000000000 = .ok .nop := by decide
theorem test_decode_begin : decode 0b00000000000000000000000000000001 = .ok .begin := by decide
theorem test_decode_frame : decode 0b00000000000000000000000000000010 = .ok .frame := by decide
theorem test_decode_cancel : decode 0b00000000000000000000000000000011 = .ok .cancel := by decide
theorem test_decode_clear : decode 0b00000000000000000000000000000100 = .ok .clear := by decide
theorem test_decode_sample : decode 0b00000000000000000000000000010000 = .ok .sample := by decide
theorem test_decode_mcut : decode 0b00000000000000000000000000010001 = .ok .mcut := by decide
theorem test_decode_index : decode 0b00000000000000000000000000010010 = .ok .index := by decide
theorem test_decode_lzw_1 : decode 0b00000000000000000000000100010011 = .ok (.lzw 1) := by decide
theorem test_decode_lzw_8 : decode 0b00000000000000000000100000010011 = .ok (.lzw 8) := by decide

/-- V-SQ10. -/
theorem test_decode_unknown_opcode : decode 0x00000005 = .error (.unknownOpcode 0x05) := by decide
theorem test_decode_depth_nine : decode 0x00000913 = .error (.lzwDepth 9) := by decide
theorem test_decode_depth_zero : decode 0x00000013 = .error (.lzwDepth 0) := by decide
theorem test_decode_stray_argument : decode 0x00000101 = .error .strayArgument := by decide
theorem test_decode_reserved_bits : decode 0x00001001 = .error .reservedBits := by decide

/-! ### Small states -/

/-- The result of a command is a next state with the property `p`. -/
def after (r : Host.Outcome State Fault Refusal) (p : State → Bool) : Bool :=
  match r with
  | .next t => p t
  | _ => false

/-- Parameters small enough to reach every bound. -/
def tiny : Params := { sampleBudget := 5, maxPixels := 16, outCapacity := 900 }

def idleState : State := { State.reset with params := tiny }

/-- The pixels red, green, blue and black of program P2, as a 2×2 frame. -/
def fourPixels : Memory :=
  { epoch := 0
    cells := cellsFrom 0 [255, 0, 0, 255, 0, 255, 0, 255, 0, 0, 255, 255, 0, 0, 0, 0] }

/-- BEGIN has run for a conversion of `n` frames of 2×2 pixels with delay 5, and the frame is in FB. -/
def openState (n : Half) : State :=
  { idleState with
    phase := .opened, width := 2, height := 2, delay := 5, frameCount := n, frameW := 2, frameH := 2
    fb := fourPixels, outLen := 32, out := { epoch := 1, cells := cellsFrom 0 (gifHeader 2 2) } }

/-- The command `op` is running. -/
def running (op : IssuedOp) (s : State) : State := { s with busy := true, curOp := op }

/-- The host's next access, made without waiting. -/
def hosted (access : HostAccess) (s : State) : State := { s with queue := [⟨true, access⟩] }

theorem hosted_arrives (access : HostAccess) (s : State) : Arrives access [] (hosted access s) :=
  ⟨true, rfl, fun _ => rfl⟩

/-- Symbols in IDX. -/
def withSymbols (syms : List Byte) (s : State) : State :=
  { s with
    idx := { epoch := 0, cells := cellsFrom 0 syms }
    idxLen := BitVec.ofNat 32 syms.length }

/-- Samples in SMP. -/
def withSamples (cs : List Rgb) (s : State) : State :=
  { s.setSamples cs with smpCount := BitVec.ofNat 32 cs.length }

/-! ### One step of each command -/

/-- V-SQ1. -/
theorem test_reset_status : State.reset.statusWord = 0 := by decide

/-- V-SQ11. -/
theorem test_nop_keeps_cmd_rej :
    after (exec .nop { State.reset with cmdRej := true }) (fun t => t.statusWord == 0x010) = true := by decide

/-- V-SQ7, V-GC1. -/
theorem test_begin_opens :
    after (exec .begin { State.reset with frameCount := 3, width := 4, height := 4 })
      (fun t => t.statusWord == 0x100 && t.outLen == 32 &&
        t.output == [0x47, 0x49, 0x46, 0x38, 0x39, 0x61, 0x04, 0x00, 0x04, 0x00, 0x70, 0x00, 0x00,
          0x21, 0xFF, 0x0B, 0x4E, 0x45, 0x54, 0x53, 0x43, 0x41, 0x50, 0x45, 0x32, 0x2E, 0x30, 0x03, 0x01, 0x00,
          0x00, 0x00]) = true := by decide

/-- V-SQ6. -/
theorem test_begin_empty_input_first :
    after (exec .begin { State.reset with width := 5 })
      (fun t => t.statusWord == 0x304 && t.errCode.code == 1) = true := by decide

/-- V-SQ18. -/
theorem test_frame_dimension_mismatch :
    after (exec .frame { openState 3 with width := 4, height := 4, frameW := 4, framesDone := 1 })
      (fun t => t.statusWord == 0x304 && t.errCode.code == 2 && t.errFrame == 1 && t.outLen == 0) = true := by
  decide

/-- V-SQ23. -/
theorem test_frame_out_overflow :
    after (exec .frame { openState 1 with params := { sampleBudget := 5, maxPixels := 16, outCapacity := 33 } })
      (fun t => t.statusWord == 0x304 && t.errCode.code == 6 && t.errFrame == 0 && t.outLen == 0) = true := by
  decide

/-- V-SQ13. -/
theorem test_cancel_open_conversion :
    after (exec .cancel { openState 3 with framesDone := 1, outLen := 830 })
      (fun t => t.statusWord == 0x304 && t.errCode.code == 4 && t.errFrame == 1 && t.outLen == 0 &&
        t.framesDone == 1) = true := by decide

/-- V-SQ14. -/
theorem test_cancel_while_busy :
    after (exec .cancel (running .frame { openState 3 with framesDone := 1 })) (fun t => t.statusWord == 0x109) =
      true := by decide

/-- V-SQ20. -/
theorem test_clear_after_error :
    after (exec .clear { openState 3 with phase := .error, errCode := .dimensionMismatch, errFrame := 1, framesDone := 1 })
      (fun t => t.statusWord == 0 && t.errCode.code == 0 && t.errFrame == 0 && t.framesDone == 0 && t.width == 2 &&
        t.delay == 5 && t.frameH == 2) = true := by decide

/-- V-SM2: the test frame `T43` with a budget of 5. -/
theorem test_sample_stride_three :
    after (exec .sample { idleState with
        frameW := 4, frameH := 3
        fb := { epoch := 0, cells := cellsFrom 0 ((List.range 12).flatMap fun p =>
          [BitVec.ofNat 8 p, BitVec.ofNat 8 (100 + p), BitVec.ofNat 8 (200 + p), BitVec.ofNat 8 (255 - p)]) } })
      (fun t => t.stride == 3 && t.samples == [⟨0, 100, 200⟩, ⟨3, 103, 203⟩, ⟨6, 106, 206⟩, ⟨9, 109, 209⟩]) =
      true := by decide

/-- V-SM8. -/
theorem test_sample_too_large :
    after (exec .sample { State.reset with frameW := 2048, frameH := 1024 }) (fun t => t.errCode.code == 5) =
      true := by decide

/-- V-MC9. -/
theorem test_mcut_stable :
    after (exec .mcut (withSamples [⟨5, 1, 0⟩, ⟨3, 2, 0⟩, ⟨5, 3, 0⟩, ⟨3, 4, 0⟩] State.reset))
      (fun t => t.bkt == [⟨0, 1⟩, ⟨2, 1⟩, ⟨1, 1⟩, ⟨3, 1⟩] && t.bktCount == 4 &&
        t.samples == [⟨3, 2, 0⟩, ⟨5, 1, 0⟩, ⟨3, 4, 0⟩, ⟨5, 3, 0⟩] &&
        t.palAt 1 == ⟨3, 4, 0⟩ && t.palAt 2 == ⟨5, 1, 0⟩ && t.palAt 255 == ⟨0, 0, 0⟩) = true := by decide

/-- V-MC5 and V-MC13: a tie of the channels, and a mean of one half. -/
theorem test_median_cut_channel_tie :
    medianCutOf [⟨0, 5, 9⟩, ⟨9, 0, 5⟩, ⟨5, 9, 0⟩] =
        ⟨[⟨0, 5, 9⟩, ⟨9, 0, 5⟩, ⟨5, 9, 0⟩], [⟨0, 1⟩, ⟨1, 1⟩, ⟨2, 1⟩]⟩ ∧
      meanColour [⟨7, 1, 0⟩, ⟨8, 2, 1⟩] = ⟨8, 2, 1⟩ := by decide

/-- V-IX2. -/
theorem test_nearest_padding_and_ties :
    [0, 20, 30, 25, 75].map (fun v => nearest ([⟨100, 100, 100⟩, ⟨50, 50, 50⟩] ++ List.replicate 254 black) ⟨v, v, v⟩) =
      [2, 2, 1, 1, 0] := by decide

/-- V-IX5. -/
theorem test_index_empty_frame :
    after (exec .index { State.reset with frameH := 7, idxLen := 3 }) (fun t => t.idxLen == 0 && t.statusWord == 0) =
      true := by decide

/-- V-LZ1. -/
theorem test_lzw_two_runs :
    after (exec (.lzw 2) (withSymbols [1, 1, 1, 1, 1, 2, 2, 2, 2, 2] State.reset))
      (fun t => t.output == [0x02, 0x04, 0x8C, 0x2D, 0x99, 0x05, 0x00]) = true := by decide

/-- V-LZ21. -/
theorem test_lzw_symbol_out_of_range :
    after (exec (.lzw 2) (withSymbols [0, 1, 4] State.reset))
      (fun t => t.statusWord == 0x304 && t.errCode.code == 3 && t.outLen == 0) = true := by decide

/-- V-LZ7 and V-LZ8, as the reference stream gives them. -/
theorem test_reference_streams :
    Reference.stream 2 [0, 1, 0, 2, 1, 2, 2, 3, 2, 0, 3] = [0x02, 0x06, 0x44, 0x20, 0x21, 0x32, 0x02, 0x53, 0x00] ∧
      Reference.stream 8 (List.replicate 16 0) =
        [0x08, 0x09, 0x00, 0x01, 0x08, 0x1C, 0x48, 0xB0, 0x20, 0x80, 0x80, 0x00] := by decide

/-- V-GC5: the frame group of program P3. -/
theorem test_reference_frame_group :
    let group := Reference.frameGroup 2 2 5 8192 [⟨255, 0, 0⟩, ⟨0, 255, 0⟩, ⟨0, 0, 255⟩, ⟨0, 0, 0⟩]
    group.length = 796 ∧
      group.take 26 = [0x21, 0xF9, 0x04, 0x00, 0x05, 0x00, 0x00, 0x00, 0x2C, 0x00, 0x00, 0x00, 0x00, 0x02, 0x00,
        0x02, 0x00, 0x87, 0x00, 0x00, 0xFF, 0x00, 0x00, 0x00, 0x00, 0xFF] ∧
      group.drop 786 = [0x08, 0x07, 0x00, 0x07, 0x08, 0x00, 0x10, 0x20, 0x20, 0x00] := by decide

/-- V-PK3. -/
theorem test_put_code_and_flush :
    (match andThen (andThen (putCode 4095 12 (packInit State.reset)) (putCode 1 12)) flush with
      | .ok t => t.output == [0x03, 0xFF, 0x1F, 0x00, 0x00]
      | .error _ => false) = true := by decide

/-- V-SQ9: a unit command in phase OPEN. -/
theorem test_unit_command_in_open :
    after (step ((openState 3).withFetchWord 32 0x813)) (fun t => t.statusWord == 0x110 && t.outLen == 32) = true := by
  decide

/-- V-SQ21, V-SQ25. -/
theorem test_register_writes_dropped :
    after (step (hosted (.writeCsr 0x10 4 8) (openState 3))) (fun t => t.width == 2 && t.statusWord == 0x100) = true ∧
      after (step (hosted (.writeCsr 0x38 4 17) idleState)) (fun t => t.idxLen == 0) = true := by decide

/-! ### Witnesses: the hypotheses of each obligation are met -/

theorem coreInv_idle : CoreInv idleState := by constructor <;> decide
theorem coreInv_open : CoreInv (openState 1) := by constructor <;> decide
theorem coreInv_open_more : CoreInv (openState 2) := by constructor <;> decide

theorem containerInv_open : ContainerInv (openState 1) where
  opened _ := ⟨[], rfl, by simp, by decide⟩
  done h := by cases h

theorem ready_idle : Ready .idle idleState := by constructor <;> decide
theorem ready_open : Ready .opened (openState 1) := by constructor <;> decide
theorem ready_open_more : Ready .opened (openState 2) := by constructor <;> decide

/-- Words with the reserved bits, the opcode, the argument and the depth wrong, each at a boundary. -/
theorem witness_MalformedWordRejected :
    (Malformed 0x00001000 ∧ Malformed 0x80000000) ∧
    (Malformed 0x00000005 ∧ Malformed 0x0000000F ∧ Malformed 0x00000014 ∧ Malformed 0x000000FF) ∧
    (Malformed 0x00000101 ∧ Malformed 0x00000F12) ∧
    (Malformed 0x00000013 ∧ Malformed 0x00000913 ∧ Malformed 0x00000F13) ∧
    ¬ Malformed 0x00000813 ∧
    Arrives (commandWrite 0x00000005) [] (hosted (commandWrite 0x00000005) idleState) := by
  refine ⟨?_, ?_, ?_, ?_, ?_, hosted_arrives _ _⟩ <;> unfold Malformed <;> decide

theorem witness_StepRunsDecodedCommand :
    Arrives (commandWrite 0x00000813) [] (hosted (commandWrite 0x00000813) idleState) ∧
    decode 0x00000813 = .ok (.lzw 8) ∧ decodeTableWord 32 0x00000813 = some (.lzw 8) :=
  ⟨hosted_arrives _ _, by decide, by decide⟩

theorem witness_StepCompletesRunningCommand :
    (running .mcut idleState).busy = true ∧ (running .mcut idleState).overtaken = false := by decide

theorem witness_IdleCoreWaits : State.reset.busy = false ∧ State.reset.queue = [] := by decide

/-- In phase IDLE and in phase OPEN, with the least and the greatest depth. -/
theorem witness_OvertakenCommandIsIssued :
    (∀ s ∈ [hosted (.readCsr 0x04 4) idleState, hosted (.readCsr 0x04 4) (openState 1)],
      s.busy = false ∧ s.overtaken = true) ∧
    (hosted (.readCsr 0x04 4) idleState).phase = .idle ∧ (hosted (.readCsr 0x04 4) (openState 1)).phase = .opened ∧
    1 ≤ (1 : BitVec 4).toNat ∧ (8 : BitVec 4).toNat ≤ 8 := by decide

/-- FRAME in phase OPEN, LZW with the least and the greatest depth in phase IDLE, and a completion without and with an
error. -/
theorem witness_LateCompletionHasSameEffect :
    (IssuedOp.frame.instr.wf = true ∧ Ready .opened (openState 1)) ∧
    ((IssuedOp.lzw 1).instr.wf = true ∧ (IssuedOp.lzw 8).instr.wf = true ∧ Ready .idle idleState) ∧
    (complete (running .sample idleState)).phase ≠ .error ∧ (complete (running .begin idleState)).phase = .error :=
  ⟨⟨rfl, ready_open⟩, ⟨by decide, by decide, ready_idle⟩, by decide, by decide⟩

/-- A busy state and each kind of access. -/
theorem witness_BusyCoreKeepsItsState :
    ∀ access ∈ [commandWrite 0x00000003, commandWrite 0x00000004, HostAccess.writeCsr 0x20 4 8, .readCsr 0x04 4,
        .store .fb 0 [1], .load .out 0 1],
      (running .frame (openState 1)).busy = true ∧
      Arrives access [] (hosted access (running .frame (openState 1))) ∧ access ≠ .reset ∧
      after (step (hosted access (running .frame (openState 1)))) (fun _ => true) = true := by
  intro access h
  refine ⟨rfl, hosted_arrives _ _, ?_, ?_⟩ <;> revert access <;> decide

/-- An illegal command, a legal one, and phases other than OPEN. -/
theorem witness_CommandAcceptedOrRejected :
    (Instr.frame.wf = true ∧ ¬ Legal .frame idleState) ∧ ((Instr.lzw 8).wf = true ∧ Legal (.lzw 8) idleState) ∧
    (idleState.busy = false ∧ idleState.phase ≠ .opened) := by
  refine ⟨⟨rfl, ?_⟩, ⟨rfl, rfl, rfl⟩, by decide⟩
  unfold Legal
  decide

theorem witness_RejectionIsSticky :
    ({ idleState with cmdRej := true } : State).cmdRej = true ∧
    after (step ({ idleState with cmdRej := true } : State)) (fun t => t.cmdRej) = true := by decide

theorem witness_HardwareResetFromAnyState :
    Arrives .reset [] (hosted .reset (running .frame (openState 1))) := hosted_arrives _ _

theorem witness_StepKeepsCoreInvariant :
    CoreInv (hosted .reset (openState 1)) ∧ after (step (hosted .reset (openState 1))) (fun _ => true) = true :=
  ⟨by constructor <;> decide, by decide⟩

theorem witness_StepKeepsContainer :
    CoreInv (openState 1) ∧ ContainerInv (openState 1) ∧ after (step (openState 1)) (fun _ => true) = true :=
  ⟨coreInv_open, containerInv_open, by decide⟩

theorem witness_StepKeepsMemoryCanonical :
    MemInv (openState 1) ∧ after (step (openState 1)) (fun _ => true) = true :=
  ⟨by constructor <;> decide, by decide⟩

theorem witness_StepKeepsParameters : after (step idleState) (fun t => t.params == tiny) = true := by decide

/-- Every offset of the table, and the first and a later reserved one, with values at the bounds of SMP_COUNT and
IDX_LEN. -/
theorem witness_CsrWriteRules :
    (∀ offset ∈ [0x04, 0x08, 0x0C, 0x10, 0x14, 0x18, 0x1C, 0x20, 0x24, 0x28, 0x2C, 0x30, 0x34, 0x38, 0x3C, 0x40, 0xFC],
      offset % 4 = 0 ∧ offset ≠ 0x00) ∧
    (∀ offset v s, Arrives (.writeCsr offset 4 v) [] (hosted (.writeCsr offset 4 v) s)) ∧
    (5 : Word).toNat ≤ idleState.params.sampleBudget ∧ ¬ (6 : Word).toNat ≤ idleState.params.sampleBudget ∧
    (16 : Word).toNat ≤ idleState.params.maxPixels ∧ ¬ (17 : Word).toNat ≤ idleState.params.maxPixels := by
  refine ⟨by decide, fun _ _ _ => hosted_arrives _ _, ?_⟩
  decide

/-- The last register and the first reserved offset. -/
theorem witness_CsrReadReturnsRegister :
    (∀ offset, Arrives (.readCsr offset 4) [] (hosted (.readCsr offset 4) idleState)) ∧ idleState.busy = false ∧
    (0x3C, idleState.stride.toNat) ∈ [(0x3C, idleState.stride.toNat)] ∧ (0x40 ≤ 0x40 ∧ 0x40 % 4 = 0 ∧ 0 = 0) :=
  ⟨fun _ => hosted_arrives _ _, rfl, by simp, by decide⟩

/-- A write whose last byte lies beyond FB, one to OUT, and the first and last bytes written. -/
theorem witness_HostWriteStoresItsBytes :
    (∀ sp a bs, Arrives (.store sp a bs) [] (hosted (.store sp a bs) idleState)) ∧ idleState.busy = false ∧
    (63 ≤ 63 ∧ 63 < 63 + 2 ∧ 63 < spaceSize tiny .fb) ∧ ¬ 64 < spaceSize tiny .fb :=
  ⟨fun _ _ _ => hosted_arrives _ _, rfl, by decide, by decide⟩

/-- A register read, and reads of the last byte of OUT and of the last byte of FB. -/
theorem witness_HostReadReturnsBytes :
    (0x3C % 4 = 0 ∧ Arrives (.readCsr 0x3C 4) [] (hosted (.readCsr 0x3C 4) idleState)) ∧
    (∀ sp a n, Arrives (.load sp a n) [] (hosted (.load sp a n) (openState 1))) ∧ (openState 1).busy = false ∧
    (0 < 1 ∧ 31 + 0 < spaceSize tiny .out ∧ 31 + 0 < (openState 1).outLen.toNat) ∧
    (0 < 1 ∧ 63 + 0 < spaceSize tiny .fb) :=
  ⟨⟨rfl, hosted_arrives _ _⟩, fun _ _ _ => hosted_arrives _ _, rfl, by decide, by decide⟩

theorem witness_UndefinedCsrAccessRefused :
    ((2 ≠ 4 ∨ 0x00 % 4 ≠ 0) ∧ Arrives (.writeCsr 0x00 2 0) [] (hosted (.writeCsr 0x00 2 0) idleState)) ∧
    ((4 ≠ 4 ∨ 0x02 % 4 ≠ 0) ∧ Arrives (.readCsr 0x02 4) [] (hosted (.readCsr 0x02 4) idleState)) :=
  ⟨⟨by decide, hosted_arrives _ _⟩, ⟨by decide, hosted_arrives _ _⟩⟩

theorem witness_NopChangesNothing : idleState.busy = false ∧ (running .index idleState).busy = true := by decide

theorem witness_ClearReturnsToIdle : (openState 1).busy = false := by decide

theorem witness_CancelByState :
    ((openState 1).busy = false ∧ (openState 1).phase = .opened) ∧
    ((running .frame (openState 1)).busy = true ∧ (running .frame (openState 1)).curOp = .frame) ∧
    ((running .begin idleState).busy = true ∧ (running .begin idleState).curOp = .begin) ∧
    ((running .index idleState).busy = true ∧ (running .index idleState).curOp ≠ .begin ∧
      (running .index idleState).curOp ≠ .frame) ∧
    (idleState.busy = false ∧ idleState.phase ≠ .opened) := by decide

/-- `idleState` with one frame of the given dimensions announced. -/
def announced (w h : Half) : State := { idleState with width := w, height := h, frameCount := 1 }

/-- The least frame, and two that fill FB. -/
theorem witness_BeginOpensConversion :
    (Ready .idle (announced 2 2) ∧ (announced 2 2).cancelReq = false ∧ (announced 2 2).params.wf ∧
      (announced 2 2).frameCount ≠ 0 ∧ GoodDimensions (announced 2 2)) ∧
    (Ready .idle (announced 4 4) ∧ GoodDimensions (announced 4 4)) ∧
    (Ready .idle (announced 2 8) ∧ GoodDimensions (announced 2 8)) := by
  refine ⟨⟨⟨rfl, rfl, rfl⟩, rfl, coreInv_idle.params, ?_, ?_⟩, ⟨⟨rfl, rfl, rfl⟩, ?_⟩, ⟨⟨rfl, rfl, rfl⟩, ?_⟩⟩ <;> decide

/-- No frame; a zero, an odd and a too large dimension. -/
theorem witness_BeginReportsFirstError :
    (Ready .idle idleState ∧ idleState.frameCount = 0) ∧
    (Ready .idle (announced 0 2) ∧ (announced 0 2).frameCount ≠ 0 ∧ ¬ GoodDimensions (announced 0 2)) ∧
    ¬ GoodDimensions (announced 2 0) ∧ ¬ GoodDimensions (announced 3 2) ∧ ¬ GoodDimensions (announced 2 1) ∧
    ¬ GoodDimensions (announced 2 10) := by
  refine ⟨⟨ready_idle, rfl⟩, ⟨⟨rfl, rfl, rfl⟩, ?_⟩, ?_⟩ <;> decide

/-- The conversion of `openState` before BEGIN, with BEGIN running and cancelled. -/
def cancelledBegin (n w : Half) : State :=
  { running .begin idleState with width := w, height := 2, frameCount := n, cancelReq := true }

/-- FRAME running and cancelled. -/
def cancelledFrame (w : Half) : State := { running .frame (openState 1) with frameW := w, cancelReq := true }

/-- FRAME running and cancelled, with an OUT of `capacity` bytes: the frame group ends at byte 828 (V-GC5). -/
def crampedFrame (capacity : Nat) : State :=
  { cancelledFrame 2 with params := { sampleBudget := 5, maxPixels := 16, outCapacity := capacity } }

def crampedGroup (capacity : Nat) : Nat :=
  (crampedFrame capacity).outLen.toNat +
    (Reference.frameGroup 2 2 5 5 (Reference.framePixels (crampedFrame capacity))).length

theorem coreInv_cancelledBegin_empty : CoreInv (cancelledBegin 0 2) := by constructor <;> decide
theorem coreInv_cancelledBegin_odd : CoreInv (cancelledBegin 1 3) := by constructor <;> decide
theorem coreInv_cancelledBegin_good : CoreInv (cancelledBegin 1 2) := by constructor <;> decide

/-- Each of the three outcomes of BEGIN, a mismatching FRAME, a FRAME with room, one whose trailer alone does not fit,
and one whose frame group is a byte too long. -/
theorem witness_CancelRequestActsAtCompletion :
    (CoreInv (cancelledBegin 0 2) ∧ (cancelledBegin 0 2).cancelReq = true ∧ Completing .begin (cancelledBegin 0 2)) ∧
    (CoreInv (cancelledBegin 1 3) ∧ Completing .begin (cancelledBegin 1 3) ∧ ¬ GoodDimensions (cancelledBegin 1 3)) ∧
    (CoreInv (cancelledBegin 1 2) ∧ Completing .begin (cancelledBegin 1 2) ∧ GoodDimensions (cancelledBegin 1 2)) ∧
    (CoreInv (cancelledFrame 4) ∧ Completing .frame (cancelledFrame 4) ∧ (cancelledFrame 4).frameW ≠ 2) ∧
    (CoreInv (cancelledFrame 2) ∧ Completing .frame (cancelledFrame 2) ∧ (cancelledFrame 2).frameW = 2 ∧
      (cancelledFrame 2).outLen.toNat + (Reference.frameGroup 2 2 5 5 (Reference.framePixels (cancelledFrame 2))).length ≤
        900) ∧
    (CoreInv (crampedFrame 828) ∧ Completing .frame (crampedFrame 828) ∧ crampedGroup 828 = 828) ∧
    (CoreInv (crampedFrame 827) ∧ Completing .frame (crampedFrame 827) ∧ 827 < crampedGroup 827) :=
  ⟨⟨coreInv_cancelledBegin_empty, rfl, ⟨rfl, rfl, rfl⟩⟩,
    ⟨coreInv_cancelledBegin_odd, ⟨rfl, rfl, rfl⟩, by decide⟩,
    ⟨coreInv_cancelledBegin_good, ⟨rfl, rfl, rfl⟩, by decide⟩,
    ⟨by constructor <;> decide, ⟨rfl, rfl, rfl⟩, by decide⟩,
    ⟨by constructor <;> decide, ⟨rfl, rfl, rfl⟩, by decide, by decide⟩,
    ⟨by constructor <;> decide, ⟨rfl, rfl, rfl⟩, by decide⟩,
    ⟨by constructor <;> decide, ⟨rfl, rfl, rfl⟩, by decide⟩⟩

theorem witness_FrameDimensionMismatch :
    (Ready .opened { openState 1 with frameW := 4 } ∧ (4 : Half) ≠ 2) ∧
    (Ready .opened { openState 1 with frameH := 0 } ∧ (0 : Half) ≠ 2) :=
  ⟨⟨⟨rfl, rfl, rfl⟩, by decide⟩, ⟨⟨rfl, rfl, rfl⟩, by decide⟩⟩

/-- The last frame of a conversion, which also writes the trailer, and one that is not the last. -/
theorem witness_FrameAppendsItsGroup :
    (CoreInv (openState 1) ∧ Ready .opened (openState 1) ∧ (openState 1).frameW = (openState 1).width ∧
      (openState 1).frameH = (openState 1).height ∧
      (openState 1).outLen.toNat + (Reference.frameBytes (openState 1)).length ≤ (openState 1).params.outCapacity) ∧
    (CoreInv (openState 2) ∧ Ready .opened (openState 2) ∧ (openState 2).frameW = (openState 2).width ∧
      (openState 2).frameH = (openState 2).height ∧
      (openState 2).outLen.toNat + (Reference.frameBytes (openState 2)).length ≤ (openState 2).params.outCapacity) :=
  ⟨⟨coreInv_open, ready_open, rfl, rfl, by decide⟩, ⟨coreInv_open_more, ready_open_more, rfl, rfl, by decide +kernel⟩⟩

/-- The trailer alone does not fit: the container of `openState` is 829 bytes long (V-GC5). -/
theorem witness_FrameOverflowsWithoutRoom :
    let s := { openState 1 with params := { sampleBudget := 5, maxPixels := 16, outCapacity := 828 } }
    CoreInv s ∧ Ready .opened s ∧ s.frameW = s.width ∧ s.frameH = s.height ∧
      s.params.outCapacity < s.outLen.toNat + (Reference.frameBytes s).length :=
  ⟨by constructor <;> decide, ⟨rfl, rfl, rfl⟩, rfl, rfl, by decide⟩

theorem witness_FrameWithRoomSucceeds :
    CoreInv (openState 1) ∧ Ready .opened (openState 1) ∧ (openState 1).frameW = (openState 1).width ∧
      (openState 1).frameH = (openState 1).height ∧
      (openState 1).outLen.toNat + 786 + Reference.maxStreamLength ((openState 1).width.toNat * (openState 1).height.toNat) +
        1 ≤ (openState 1).params.outCapacity :=
  ⟨coreInv_open, ready_open, rfl, rfl, by decide⟩

/-- A state with the same conversion and the same colours: an alpha byte, and everything a unit command leaves, is
different. -/
def otherState : State :=
  { openState 1 with
    fb := (openState 1).fb.write 3 7, smpCount := 3, bktCount := 2, bkt := [⟨0, 1⟩, ⟨1, 2⟩], idxLen := 1, stride := 9, errFrame := 0
    pal := { epoch := 4, cells := [(0, 1)] }, draws := 5 }

theorem witness_FrameDependsOnItsPixelsOnly :
    CoreInv (openState 1) ∧ CoreInv otherState ∧ Ready .opened (openState 1) ∧ Ready .opened otherState ∧
    otherState.params = (openState 1).params ∧ otherState.width = (openState 1).width ∧
    otherState.height = (openState 1).height ∧ otherState.delay = (openState 1).delay ∧
    otherState.frameW = (openState 1).frameW ∧ otherState.frameH = (openState 1).frameH ∧
    otherState.frameCount = (openState 1).frameCount ∧ otherState.framesDone = (openState 1).framesDone ∧
    otherState.output = (openState 1).output ∧
    (∀ p, p < 2 * 2 → otherState.pixel p = (openState 1).pixel p) ∧
    (∃ t, exec .frame (openState 1) = .next t) ∧ (∃ t, exec .frame otherState = .next t) ∧
    otherState.fb ≠ (openState 1).fb :=
  ⟨coreInv_open, by constructor <;> decide, ready_open, ⟨rfl, rfl, rfl⟩, rfl, rfl, rfl, rfl, rfl, rfl, rfl, rfl, rfl,
    by decide, exec_is_next _ _, exec_is_next _ _, by decide⟩

/-- BEGIN, a failing SAMPLE, CANCEL and CLEAR change the phase. -/
theorem witness_PhaseTransitions :
    (CoreInv ({ idleState with width := 2, height := 2, frameCount := 1 } : State) ∧
      after (step (({ idleState with width := 2, height := 2, frameCount := 1 } : State).withFetchWord 32 1))
        (fun t => t.phase == .opened) = true) ∧
    (CoreInv ({ idleState with frameW := 17, frameH := 1 } : State) ∧
      after (step (({ idleState with frameW := 17, frameH := 1 } : State).withFetchWord 32 0x10))
        (fun t => t.phase == .error) = true) ∧
    (CoreInv (openState 1) ∧ after (step ((openState 1).withFetchWord 32 3)) (fun t => t.phase == .error) = true ∧
      after (step ((openState 1).withFetchWord 32 4)) (fun t => t.phase == .idle) = true) := by
  refine ⟨⟨by constructor <;> decide, by decide⟩, ⟨by constructor <;> decide, by decide⟩, ⟨coreInv_open, ?_⟩⟩
  decide

theorem witness_ProgressNeverFalls :
    CoreInv (openState 1) ∧ (openState 1).phase = .opened ∧
    after (step ((openState 1).withFetchWord 32 3)) (fun t => t.phase != .idle) = true :=
  ⟨coreInv_open, rfl, by decide⟩

/-- An empty frame, and one that fills FB. -/
theorem witness_SampleTakesEveryStridethPixel :
    (CoreInv idleState ∧ Ready .idle idleState ∧ idleState.frameW.toNat * idleState.frameH.toNat = 0) ∧
    (let s := { idleState with frameW := 4, frameH := 4 };
      CoreInv s ∧ Ready .idle s ∧ s.frameW.toNat * s.frameH.toNat = s.params.maxPixels) :=
  ⟨⟨coreInv_idle, ready_idle, rfl⟩, ⟨by constructor <;> decide, ⟨rfl, rfl, rfl⟩, rfl⟩⟩

theorem witness_UnitCommandsRefuseLargeFrames :
    let s := { idleState with frameW := 17, frameH := 1 }
    Ready .idle s ∧ s.params.maxPixels < s.frameW.toNat * s.frameH.toNat :=
  ⟨⟨rfl, rfl, rfl⟩, by decide⟩

theorem witness_ChannelRangeIsMaxMinusMin : [(⟨0, 5, 255⟩ : Rgb)] ≠ [] := by decide

/-- A scan that finds nothing, and one that finds the last channel of the last bucket. -/
theorem witness_SelectTakesFirstLargestRange :
    select ⟨[⟨7, 7, 7⟩, ⟨7, 7, 7⟩, ⟨9, 9, 9⟩], [⟨0, 2⟩, ⟨2, 1⟩]⟩ = none ∧
    select ⟨[⟨7, 7, 7⟩, ⟨7, 7, 7⟩, ⟨9, 9, 9⟩, ⟨9, 9, 10⟩], [⟨0, 2⟩, ⟨2, 2⟩]⟩ = some ⟨1, .blue, 1⟩ := by decide

/-- A bucket that ends with the last sample. -/
theorem witness_SortIsStable : (⟨1, 2⟩ : Bucket).start + (⟨1, 2⟩ : Bucket).len ≤ [black, black, black].length := by
  decide

/-- The smallest bucket that can be split, and an odd one. -/
theorem witness_SplitAtMedian :
    (([⟨0, 2⟩] : List Bucket)[0]? = some ⟨0, 2⟩ ∧ 2 ≤ (⟨0, 2⟩ : Bucket).len) ∧
    (([⟨0, 1⟩, ⟨1, 3⟩] : List Bucket)[1]? = some ⟨1, 3⟩ ∧ 2 ≤ (⟨1, 3⟩ : Bucket).len) := by decide

/-- Cuts on which Select finds nothing and something, and the least number of passes. -/
theorem witness_MedianCutRepeatsSelectAndSplit :
    select ⟨[⟨7, 7, 7⟩, ⟨7, 7, 7⟩], [⟨0, 2⟩]⟩ = none ∧
    select ⟨[⟨7, 7, 7⟩, ⟨7, 7, 8⟩], [⟨0, 2⟩]⟩ = some ⟨0, .blue, 1⟩ ∧ 255 ≤ 255 := by decide

theorem witness_MeanRoundsHalfUp : [(⟨7, 0, 0⟩ : Rgb), ⟨8, 0, 0⟩] ≠ [] := by decide

/-- No samples, and as many as SMP holds. -/
theorem witness_McutBuildsThePalette :
    (CoreInv idleState ∧ Ready .idle idleState) ∧
    (let s := { idleState with smpCount := 5 };
      CoreInv s ∧ Ready .idle s ∧ s.smpCount.toNat = s.params.sampleBudget) :=
  ⟨⟨coreInv_idle, ready_idle⟩, ⟨by constructor <;> decide, ⟨rfl, rfl, rfl⟩, rfl⟩⟩

/-- No samples, and one colour in every sample there is. -/
theorem witness_DegenerateSampleSets :
    (CoreInv idleState ∧ Ready .idle idleState ∧ idleState.smpCount = 0) ∧
    (let s := withSamples (List.replicate 5 ⟨10, 20, 30⟩) idleState;
      CoreInv s ∧ Ready .idle s ∧ s.smpCount ≠ 0 ∧ ∀ j, j < s.smpCount.toNat → s.sampleAt j = ⟨10, 20, 30⟩) :=
  ⟨⟨coreInv_idle, ready_idle, rfl⟩, ⟨by constructor <;> decide, ⟨rfl, rfl, rfl⟩, by decide, by decide⟩⟩

/-- An empty frame, and one that fills FB. -/
theorem witness_IndexTakesNearestEntry :
    (CoreInv idleState ∧ Ready .idle idleState ∧ idleState.frameW.toNat * idleState.frameH.toNat = 0) ∧
    (let s := { idleState with frameW := 16, frameH := 1 };
      CoreInv s ∧ Ready .idle s ∧ s.frameW.toNat * s.frameH.toNat = s.params.maxPixels) :=
  ⟨⟨coreInv_idle, ready_idle, rfl⟩, ⟨by constructor <;> decide, ⟨rfl, rfl, rfl⟩, rfl⟩⟩

/-- OUT full, and OUT with one byte left. -/
theorem witness_OutByteAppends :
    ({ idleState with outLen := 900 } : State).outLen.toNat = idleState.params.outCapacity ∧
    ({ idleState with outLen := 899 } : State).outLen.toNat ≠ idleState.params.outCapacity := by decide

/-- As many pending bits, buffered bytes and code bits as there can be. -/
theorem witness_PackerInvariant :
    let p : PackRegs := { acc := 127, nb := 7, blk := List.replicate 254 0 }
    PackInv p ∧ 4095 < 2 ^ 12 ∧ 12 ≤ 12 ∧
    (match putCode 4095 12 { State.reset with pack := p } with | .ok _ => true | .error _ => false) = true ∧
    (match flush { State.reset with pack := p } with | .ok _ => true | .error _ => false) = true :=
  ⟨by constructor <;> decide, by decide, by decide, by decide +kernel, by decide +kernel⟩

/-- An encoder one entry short of a full dictionary. -/
def fullEncoder : LzwRegs :=
  { m := 8, clear := 256, endCode := 257, w := 12, next := 4095, pre := 4094, dict := [] }

theorem witness_EncoderInvariant :
    ((match openStream 1 State.reset with | .ok _ => true | .error _ => false) = true ∧ (3 : Byte).toNat < 2 ^ max 2 1) ∧
    (EncInv fullEncoder ∧
      (match lzwPass 255 { State.reset with lzw := fullEncoder } with | .ok _ => true | .error _ => false) = true) :=
  ⟨⟨by decide, by decide⟩, ⟨by constructor <;> decide, by decide +kernel⟩⟩

theorem witness_CodesFitTheirWidth :
    (2 ≤ 2 ∧ 2 ≤ 8 ∧ ∀ x ∈ [(0 : Byte), 3], x.toNat < 2 ^ 2) ∧ (8 ≤ 8 ∧ ∀ x ∈ [(0 : Byte), 255], x.toNat < 2 ^ 8) := by
  decide

/-- A stream that fits OUT and fills it, and one that is a byte too long: V-LZ2 is 4 bytes. -/
theorem witness_LzwStreamIsThePackedCodes :
    (∀ x ∈ idleState.symbols 0, x.toNat < 2 ^ max 2 2) ∧ idleState.params.outCapacity < 2 ^ 32 ∧
    (896 ≤ 900 ∧ 896 + (Reference.stream 2 (idleState.symbols 0)).length ≤ idleState.params.outCapacity) ∧
    (897 ≤ 900 ∧ idleState.params.outCapacity < 897 + (Reference.stream 2 (idleState.symbols 0)).length) := by
  decide

theorem witness_CodesReadBackToSymbols :
    2 ≤ 3 ∧ 3 ≤ 8 ∧ (∀ x ∈ [(0 : Byte), 7, 7, 7, 1], x.toNat < 2 ^ 3) ∧
    Reference.readCodes 3 ((Reference.codes 3 [0, 7, 7, 7, 1]).map Prod.fst) [] none = some [0, 7, 7, 7, 1] := by
  decide

theorem witness_StreamLengthBound : [(5 : Byte)] ≠ [] := by decide

/-- V-LZ17 for depth 8; OUT large enough, and OUT too small for a longer stream (the 40 symbols differ). -/
theorem witness_LzwWritesItsStream :
    (let s := withSymbols [255, 255, 255] idleState;
      CoreInv s ∧ Ready .idle s ∧ (∀ x ∈ s.symbols s.idxLen.toNat, x.toNat < 2 ^ max 2 8) ∧
        (Reference.stream 8 (s.symbols s.idxLen.toNat)).length ≤ s.params.outCapacity) ∧
    (let s := withSymbols ((List.range 40).map (BitVec.ofNat 8))
        { idleState with params := { sampleBudget := 5, maxPixels := 40, outCapacity := 33 } };
      CoreInv s ∧ Ready .idle s ∧ (∀ x ∈ s.symbols s.idxLen.toNat, x.toNat < 2 ^ max 2 8) ∧
        s.params.outCapacity < (Reference.stream 8 (s.symbols s.idxLen.toNat)).length) :=
  ⟨⟨by constructor <;> decide, ⟨rfl, rfl, rfl⟩, by decide, by decide +kernel⟩,
    ⟨by constructor <;> decide, ⟨rfl, rfl, rfl⟩, by decide, by decide +kernel⟩⟩

/-- V-LZ21, and V-LZ20: the first symbol is the bad one, for the least depth. -/
theorem witness_LzwSymbolOutOfRange :
    (let s := withSymbols [0, 1, 4] idleState;
      CoreInv s ∧ Ready .idle s ∧ 2 < s.idxLen.toNat ∧ 2 ^ max 2 2 ≤ (s.byte .idx 2).toNat ∧
        (∀ j, j < 2 → (s.byte .idx j).toNat < 2 ^ max 2 2) ∧
        (Reference.stream 2 (s.symbols 2)).length ≤ s.params.outCapacity) ∧
    (let s := withSymbols [4] idleState;
      CoreInv s ∧ Ready .idle s ∧ 0 < s.idxLen.toNat ∧ 2 ^ max 2 1 ≤ (s.byte .idx 0).toNat ∧
        (Reference.stream 1 (s.symbols 0)).length ≤ s.params.outCapacity) :=
  ⟨⟨by constructor <;> decide, ⟨rfl, rfl, rfl⟩, by decide, by decide, by decide, by decide⟩,
    ⟨by constructor <;> decide, ⟨rfl, rfl, rfl⟩, by decide, by decide, by decide⟩⟩

theorem witness_EmptyStreamBytes : CoreInv idleState ∧ Ready .idle idleState ∧ idleState.idxLen = 0 :=
  ⟨coreInv_idle, ready_idle, rfl⟩

end Sys2Proof.Tests
end

section
/-! SUPPORT. Register accesses: which register stands at which offset (rules R21, R32), and what a register write can
do (rule R31). -/

namespace Sys2Proof.Machine

/-! ### Register offsets -/

/-- The byte offset of a register in the CSR space (rule R21): `csrAt` read the other way round. -/
def Csr.offset : Csr → Nat
  | .cmd => 0x00
  | .status => 0x04
  | .errCode => 0x08
  | .errFrame => 0x0C
  | .width => 0x10
  | .height => 0x14
  | .delay => 0x18
  | .frameCount => 0x1C
  | .frameW => 0x20
  | .frameH => 0x24
  | .framesDone => 0x28
  | .outLen => 0x2C
  | .smpCount => 0x30
  | .bktCount => 0x34
  | .idxLen => 0x38
  | .stride => 0x3C

@[simp] theorem csrAt_offset (c : Csr) : csrAt c.offset = some c := by cases c <;> rfl

/-- An offset is that of at most one register, and every register is found at its own offset. -/
theorem csrAt_eq_some_iff {offset : Nat} {c : Csr} : csrAt offset = some c ↔ offset = c.offset := by
  constructor
  · intro h
    unfold csrAt at h
    split at h <;> cases h <;> rfl
  · rintro rfl
    exact csrAt_offset c

/-- The reserved aligned offsets begin at 0x40 (rule R32). -/
theorem le_of_csrAt_eq_none {offset : Nat} (h : csrAt offset = none) (haligned : offset % 4 = 0) : 0x40 ≤ offset := by
  obtain ⟨k, rfl⟩ := Nat.dvd_of_mod_eq_zero haligned
  have hregister : ∀ k < 16, csrAt (4 * k) ≠ none := by decide
  have hk : ¬ k < 16 := fun hk => hregister k hk h
  omega

/-! ### Register writes -/

/-- A 32-bit aligned register write that reaches the core is served by `writeCsr` (rule R62). -/
theorem step_of_csrWrite {offset : Nat} {v : Word} {rest : List HostEvent} {s : State}
    (h : Arrives (.writeCsr offset 4 v) rest s) (haligned : offset % 4 = 0) :
    step s = writeCsr offset v { s with queue := rest } := by
  rw [step_of_arrives h, perform, if_pos (by simp [csrAccessDefined, haligned])]

theorem writeCsr_of_reserved {offset : Nat} (h : csrAt offset = none) (v : Word) (s : State) :
    writeCsr offset v s = .next s := by
  rw [writeCsr, h]

/-- A write to a register other than CMD is dropped while BUSY is 1 (rule R31, clause 1). -/
theorem writeCsr_of_register {c : Csr} (hcmd : c ≠ .cmd) (v : Word) (s : State) :
    writeCsr c.offset v s = .next (if s.busy then s else writeField c v s) := by
  rw [writeCsr, csrAt_offset]
  split
  · next h => exact absurd (Option.some.inj h) hcmd
  · next h => rw [Option.some.inj h]
  · next h => cases h

/-- A write to a register other than CMD, or to a reserved offset, has no effect while BUSY is 1 (rule R31, clause 1;
rule R32). -/
theorem writeCsr_of_busy {offset : Nat} {s : State} (hcmd : offset ≠ Csr.cmd.offset) (hb : s.busy = true) (v : Word) :
    writeCsr offset v s = .next s := by
  cases hc : csrAt offset with
  | none => exact writeCsr_of_reserved hc v s
  | some c =>
    obtain rfl := csrAt_eq_some_iff.mp hc
    rw [writeCsr_of_register (ne_of_apply_ne _ hcmd), if_pos hb]

theorem writeInIdle_of_idle {s : State} (h : s.phase = .idle) (t : State) : writeInIdle s t = t := if_pos h

theorem writeInIdle_of_not_idle {s : State} (h : s.phase ≠ .idle) (t : State) : writeInIdle s t = s := if_neg h

/-! ### Field widths -/

/-- A register that holds a field of `n` bits reads as 0 above it (rule R21). -/
theorem toNat_setWidth_word_lt {n : Nat} (hn : n ≤ 32) (field : BitVec n) :
    (field.setWidth 32).toNat < 2 ^ n := by
  rw [BitVec.toNat_setWidth_of_le hn]
  exact field.isLt

theorem csrValue_lt_of_half (s : State) {c : Csr} (h : c = .errFrame ∨ c = .width ∨ c = .height ∨ c = .delay ∨
    c = .frameCount ∨ c = .frameW ∨ c = .frameH ∨ c = .framesDone) : (s.csrValue c).toNat < 2 ^ 16 := by
  rcases h with rfl | rfl | rfl | rfl | rfl | rfl | rfl | rfl <;> exact toNat_setWidth_word_lt (by decide) _

end Sys2Proof.Machine
end

section
/-! The obligation on register writes. -/

namespace Sys2Proof.Machine

/-- Settles O19: the offset of the write is reserved or names one register, and rule R31 is checked register by
register, first outside phase IDLE and then in it. -/
theorem csrWriteRules : Obligations.CsrWriteRules := by
  unfold Obligations.CsrWriteRules
  refine ⟨fun s rest offset v harrives haligned hcmd => ?_, fun s => ⟨fun c => csrValue_lt_of_half s,
    toNat_setWidth_word_lt (by decide) _, toNat_setWidth_word_lt (by decide) _⟩⟩
  intro u field
  rw [show step s = writeCsr offset v u from step_of_csrWrite harrives haligned]
  by_cases hb : s.busy = true
  · rw [if_pos hb]
    exact writeCsr_of_busy hcmd (s := u) hb v
  rw [if_neg hb]
  cases hc : csrAt offset with
  | none =>
    have hreserved := le_of_csrAt_eq_none hc haligned
    rw [writeCsr_of_reserved hc]
    simp (disch := omega) only [if_neg, ite_self]
  | some c =>
    obtain rfl := csrAt_eq_some_iff.mp hc
    rw [writeCsr_of_register (ne_of_apply_ne _ hcmd), if_neg (show ¬ u.busy = true from hb)]
    by_cases hidle : s.phase = .idle
    · cases c <;> simp [Csr.offset, writeField, writeInIdle_of_idle, hidle, u, field]
    · cases c <;> simp [Csr.offset, writeField, writeInIdle_of_not_idle, hidle, u, field]

end Sys2Proof.Machine
end

section
/-! SUPPORT. What an access of the host can do while BUSY is 1 (rule R71): a command written to CMD, a read, and the
inversion of `perform`. -/

namespace Sys2Proof.Machine

/-! ### Commands written to CMD -/

theorem commandWrite_injective : Function.Injective commandWrite := by
  rintro w w' ⟨⟩
  rfl

theorem cancellable_eq_true_iff {op : IssuedOp} : op.cancellable = true ↔ op = .begin ∨ op = .frame := by
  cases op <;> simp [IssuedOp.cancellable]

/-- CANCEL written while a command runs is recorded for BEGIN and FRAME, and does nothing else (rule R210). -/
theorem exec_cancel_of_busy {s : State} (hb : s.busy = true) :
    exec .cancel s = .next { s with cancelReq := s.cancelReq || s.curOp.cancellable } := by
  rw [show exec .cancel s = execCancel s from rfl, execCancel, if_pos hb]
  cases s.curOp.cancellable <;> simp

/-- Every command but CANCEL is rejected while a command runs (rules R94, R212). -/
theorem exec_of_busy {i : Instr} {s : State} (hb : s.busy = true) (hi : i ≠ .cancel) : exec i s = .next (reject s) := by
  have hlaunch : ∀ phase op, launchIn phase op s = .next (reject s) := fun phase op =>
    launchIn_of_illegal (fun h => absurd h.1 (by simp [hb])) op
  cases i with
  | nop => exact if_pos hb
  | begin => exact hlaunch _ _
  | frame => exact hlaunch _ _
  | cancel => exact absurd rfl hi
  | clear => exact if_pos hb
  | sample => exact hlaunch _ _
  | mcut => exact hlaunch _ _
  | index => exact hlaunch _ _
  | lzw depth => exact (ite_congr rfl (fun _ => hlaunch _ _) fun _ => rfl).trans (ite_self _)

/-- A command word other than CANCEL, malformed or not, is rejected while a command runs (rule R212). -/
theorem writeCommand_of_busy {w : Word} {s : State} (hb : s.busy = true) (hw : decode w ≠ .ok .cancel) :
    writeCommand w s = .next (reject s) := by
  cases hd : decode w with
  | ok i => exact (writeCommand_of_decode hd s).trans (exec_of_busy hb fun hi => hw (hi ▸ hd))
  | error e => rw [writeCommand, hd]

/-! ### The other accesses -/

theorem csrAccessDefined_iff {offset size : Nat} :
    csrAccessDefined offset size = true ↔ size = 4 ∧ offset % 4 = 0 := by
  simp [csrAccessDefined]

/-- A register read changes the read port and the count of free values only (rule R68). -/
theorem readCsr_frame (offset : Nat) (s : State) :
    readCsr offset s = { s with rdata := (readCsr offset s).rdata, draws := (readCsr offset s).draws } := by
  unfold readCsr
  split
  · rfl
  · split <;> rfl
  · rfl

/-- Everything an access but reset can do while a command runs (rule R71): CANCEL is recorded, another command word is
rejected, and what is not a write to CMD reaches the read port and the count of free values only. -/
theorem perform_cases_of_busy {access : HostAccess} {s t : State} (hb : s.busy = true) (hreset : access ≠ .reset)
    (h : perform access s = .next t) :
    (∃ w, access = commandWrite w ∧ decode w = .ok .cancel ∧
        t = { s with cancelReq := s.cancelReq || s.curOp.cancellable }) ∨
      (∃ w, access = commandWrite w ∧ decode w ≠ .ok .cancel ∧ t = reject s) ∨
      ((∀ w, access ≠ commandWrite w) ∧ t = { s with rdata := t.rdata, draws := t.draws }) := by
  cases access with
  | writeCsr offset size v =>
    rw [perform] at h
    split at h
    · next hdefined =>
      obtain ⟨rfl, -⟩ := csrAccessDefined_iff.mp hdefined
      by_cases hcmd : offset = Csr.cmd.offset
      · subst hcmd
        rw [show writeCsr Csr.cmd.offset v s = writeCommand v s from rfl] at h
        by_cases hw : decode v = .ok .cancel
        · rw [writeCommand_of_decode hw, exec_cancel_of_busy hb] at h
          cases h
          exact .inl ⟨v, rfl, hw, rfl⟩
        · rw [writeCommand_of_busy hb hw] at h
          cases h
          exact .inr (.inl ⟨v, rfl, hw, rfl⟩)
      · rw [writeCsr_of_busy hcmd hb] at h
        cases h
        exact .inr (.inr ⟨fun w hw => hcmd (HostAccess.writeCsr.inj hw).1, rfl⟩)
    · cases h
  | readCsr offset size =>
    rw [perform] at h
    split at h
    · cases h
      exact .inr (.inr ⟨nofun, readCsr_frame offset s⟩)
    · cases h
  | store space a bs =>
    rw [perform, storeMem, if_pos hb] at h
    cases h
    exact .inr (.inr ⟨nofun, rfl⟩)
  | load space a count =>
    cases h
    exact .inr (.inr ⟨nofun, rfl⟩)
  | reset => exact absurd rfl hreset

end Sys2Proof.Machine
end

section
/-! The obligation on the host's accesses while a command runs. -/

namespace Sys2Proof.Machine

/-- Settles O9: an access that reaches a busy core is CANCEL, another write to CMD, or no write to CMD, and each of the
three determines the next state up to the read port. -/
theorem busyCoreKeepsItsState : Obligations.BusyCoreKeepsItsState := by
  unfold Obligations.BusyCoreKeepsItsState
  intro s t access rest hb harrives hreset hstep
  rw [step_of_arrives harrives] at hstep
  rcases perform_cases_of_busy (s := { s with queue := rest }) hb hreset hstep with
    ⟨w, rfl, hw, rfl⟩ | ⟨w, rfl, hw, rfl⟩ | ⟨hcmd, ht⟩
  · refine ⟨rfl, fun _ _ _ => ⟨rfl, ?_⟩, fun w' hw' hne => ?_, fun hcmd => absurd rfl (hcmd w), nofun⟩
    · rw [Bool.or_eq_true, cancellable_eq_true_iff]
    · exact absurd (commandWrite_injective hw' ▸ hw) hne
  · refine ⟨rfl, fun w' hw' hcancel => ?_, fun _ _ _ => ⟨rfl, rfl⟩, fun hcmd => absurd rfl (hcmd w), nofun⟩
    exact absurd (commandWrite_injective hw' ▸ hcancel) hw
  · have hflags : t.cmdRej = s.cmdRej ∧ t.cancelReq = s.cancelReq := by
      rw [ht]
      exact ⟨rfl, rfl⟩
    refine ⟨by rw [ht], fun w hw => absurd hw (hcmd w), fun w hw => absurd hw (hcmd w), fun _ => hflags, ?_⟩
    rintro rfl
    cases hstep
    rfl

end Sys2Proof.Machine
end

section
/-! SUPPORT. The malformed command words (rule R93): the fields of a word as numbers, the words no command decodes
from, and what writing one does. -/

namespace Sys2Proof.Machine

/-! ### The fields of a command word as numbers -/

theorem fieldOp_toNat (w : Word) : (fieldOp w).toNat = w.toNat % 256 := by
  rw [fieldOp, BitVec.extractLsb'_toNat, Nat.shiftRight_zero]

theorem fieldArg_toNat (w : Word) : (fieldArg w).toNat = w.toNat / 256 % 16 := by
  rw [fieldArg, BitVec.extractLsb'_toNat, Nat.shiftRight_eq_div_pow]

/-- RSV is what remains of the word above its low twelve bits (rule R90). -/
theorem fieldRsv_eq_zero_iff (w : Word) : fieldRsv w = 0 ↔ w.toNat / 4096 = 0 := by
  have hrsv : (fieldRsv w).toNat = w.toNat / 4096 % 2 ^ 20 := by
    rw [fieldRsv, BitVec.extractLsb'_toNat, Nat.shiftRight_eq_div_pow]
  rw [← BitVec.toNat_inj, hrsv, Nat.mod_eq_of_lt (by omega)]
  rfl

/-! ### The words no command decodes from -/

theorem plainCommand_undecodable_iff (arg : BitVec 4) (i : Instr) :
    (∀ j, plainCommand arg i ≠ .ok j) ↔ arg.toNat ≠ 0 := by
  have hzero : arg.toNat = 0 ↔ arg = 0 := BitVec.toNat_inj (y := 0)
  rw [plainCommand, Ne, hzero]
  split
  · next h => exact ⟨fun hj => absurd rfl (hj _), absurd h⟩
  · next h => exact ⟨fun _ => h, fun _ => nofun⟩

theorem lzwCommand_undecodable_iff (arg : BitVec 4) :
    (∀ j, lzwCommand arg ≠ .ok j) ↔ arg.toNat = 0 ∨ 8 < arg.toNat := by
  have hwf : (Instr.lzw arg).wf = true ↔ 1 ≤ arg.toNat ∧ arg.toNat ≤ 8 := by simp [Instr.wf]
  rw [lzwCommand]
  split
  · next h => exact ⟨fun hj => absurd rfl (hj _), by have := hwf.mp h; omega⟩
  · next h => exact ⟨fun _ => by rw [hwf] at h; omega, nofun⟩

/-- Rule R93: the malformed words are those no command decodes from. -/
theorem malformed_iff_undecodable (w : Word) : Malformed w ↔ ∀ i, decode w ≠ .ok i := by
  rw [Malformed, decode]
  by_cases hrsv : fieldRsv w = 0
  · rw [if_pos hrsv, ← fieldOp_toNat, ← fieldArg_toNat, (fieldRsv_eq_zero_iff w).mp hrsv]
    split
    case h_9 hlzw => simp [hlzw, lzwCommand_undecodable_iff]
    case h_10 => exact ⟨fun _ => nofun, fun _ => .inr (.inl (by simp_all))⟩
    all_goals
      next hplain => simp [hplain, plainCommand_undecodable_iff]
  · rw [if_neg hrsv]
    exact ⟨fun _ => nofun, fun _ => .inl (mt (fieldRsv_eq_zero_iff w).mpr hrsv)⟩

/-! ### Writing one -/

/-- A word no command decodes from is rejected, whatever the state (rules R93, R212). -/
theorem writeCommand_of_undecodable {w : Word} (h : ∀ i, decode w ≠ .ok i) (s : State) :
    writeCommand w s = .next (reject s) := by
  cases hd : decode w with
  | ok i => exact absurd hd (h i)
  | error e => rw [writeCommand, hd]

end Sys2Proof.Machine
end

section
/-! The obligation on malformed command words. -/

namespace Sys2Proof.Machine

/-- Settles O3: the decoder refuses a word for one of the four reasons of rule R93, and a refused word reaches
`reject`. -/
theorem malformedWordRejected : Obligations.MalformedWordRejected := by
  unfold Obligations.MalformedWordRejected
  refine fun w => ⟨malformed_iff_undecodable w, fun hw s rest harrives => ?_⟩
  calc step s = writeCommand w { s with queue := rest } := step_of_arrives harrives
    _ = .next (reject { s with queue := rest }) := writeCommand_of_undecodable ((malformed_iff_undecodable w).mp hw) _

end Sys2Proof.Machine
end

section
/-! SUPPORT. What the body of a command leaves unchanged, in every state: unlike `OnlyEmits`, no lemma here asks that
OUT_LEN is inside OUT. -/

namespace Sys2Proof.Machine

/-- The two states differ in the results of a command at most: the phase, the progress, the counts, the buffers, OUT,
and the encoder's and the packer's registers. What a host writes, and the flags of STATUS, are the same. -/
def SameButResults (s t : State) : Prop :=
  t = { s with
        phase := t.phase, framesDone := t.framesDone, outLen := t.outLen, smpCount := t.smpCount
        bktCount := t.bktCount, idxLen := t.idxLen, stride := t.stride, lzw := t.lzw, pack := t.pack, bkt := t.bkt
        smp := t.smp, pal := t.pal, idx := t.idx, out := t.out }

/-- A run from `s` that raises no error ends in a state that differs from `s` in the results of a command at most. -/
def OnlyResults (s : State) (r : Except ErrCode State) : Prop :=
  ∀ t, r = .ok t → SameButResults s t

/-! ### Runs one after the other -/

theorem SameButResults.trans {s t u : State} (h1 : SameButResults s t) (h2 : SameButResults t u) :
    SameButResults s u := by
  refine Eq.trans h2 ?_
  rw [h1]

theorem SameButResults.cmdRej {s t : State} (h : SameButResults s t) : t.cmdRej = s.cmdRej := by
  rw [h]

theorem OnlyResults.ok {s t : State} (h : SameButResults s t) : OnlyResults s (.ok t) := by
  rintro _ ⟨⟩
  exact h

theorem OnlyResults.error {s : State} (e : ErrCode) : OnlyResults s (.error e) := by
  rintro _ ⟨⟩

theorem OnlyResults.after {s t : State} {r : Except ErrCode State} (hr : OnlyResults t r) (h : SameButResults s t) :
    OnlyResults s r :=
  fun u hu => h.trans (hr u hu)

theorem OnlyResults.andThen {s : State} {r : Except ErrCode State} {f : State → Except ErrCode State}
    (hr : OnlyResults s r) (hf : ∀ t, OnlyResults t (f t)) : OnlyResults s (andThen r f) := by
  intro u hu
  obtain ⟨t, ht, hfu⟩ := andThen_eq_ok.mp hu
  exact (hr t ht).trans (hf t u hfu)

theorem OnlyResults.ite {s : State} {p : Prop} [Decidable p] {r r' : Except ErrCode State} (hr : OnlyResults s r)
    (hr' : OnlyResults s r') : OnlyResults s (if p then r else r') := by
  split
  · exact hr
  · exact hr'

/-! ### Units U4 and U3 -/

theorem onlyResults_outBytes (bs : List Byte) (s : State) : OnlyResults s (outBytes bs s) :=
  .ite (.ok rfl) (.error _)

theorem onlyResults_outByte (b : Byte) (s : State) : OnlyResults s (outByte b s) :=
  .ite (.error _) (.ok rfl)

theorem onlyResults_outBlk (s : State) : OnlyResults s (outBlk s) :=
  .andThen (onlyResults_outBytes _ s) fun _ => .ok rfl

theorem onlyResults_putBlkByte (b : Byte) (s : State) : OnlyResults s (putBlkByte b s) :=
  .ite (.after (onlyResults_outBlk _) rfl) (.ok rfl)

theorem onlyResults_drainBytes (passes : Nat) (s : State) : OnlyResults s (drainBytes passes s) := by
  induction passes generalizing s with
  | zero => exact .ok rfl
  | succ passes ih => exact .ite (.andThen (onlyResults_putBlkByte _ s) fun _ => .after (ih _) rfl) (.ok rfl)

theorem onlyResults_putCode (c w : Nat) (s : State) : OnlyResults s (putCode c w s) :=
  .after (onlyResults_drainBytes _ _) rfl

theorem onlyResults_flush (s : State) : OnlyResults s (flush s) := by
  have hbits : OnlyResults s (flushBits s) := .ite (.andThen (onlyResults_putBlkByte _ s) fun _ => .ok rfl) (.ok rfl)
  have hblk : ∀ t, OnlyResults t (flushBlk t) := fun t => .ite (onlyResults_outBlk t) (.ok rfl)
  exact .andThen (.andThen hbits hblk) (onlyResults_outByte 0)

theorem onlyResults_growDict (sym : Byte) (s : State) : OnlyResults s (growDict sym s) :=
  .ite (.ok rfl) (.andThen (onlyResults_putCode _ _ s) fun _ => .ok rfl)

theorem onlyResults_lzwPass (sym : Byte) (s : State) : OnlyResults s (lzwPass sym s) := by
  refine .ite (.error _) ?_
  split
  · exact .ok rfl
  · exact .andThen (.andThen (onlyResults_putCode _ _ s) (onlyResults_growDict sym)) fun _ => .ok rfl

theorem onlyResults_lzwLoop (syms : List Byte) (s : State) : OnlyResults s (lzwLoop syms s) := by
  induction syms generalizing s with
  | nil => exact .ok rfl
  | cons sym syms ih => exact .andThen (onlyResults_lzwPass sym s) ih

theorem onlyResults_endStream (s : State) : OnlyResults s (endStream s) :=
  .andThen (onlyResults_putCode _ _ s) onlyResults_flush

theorem onlyResults_encodeSymbols (syms : List Byte) (s : State) : OnlyResults s (encodeSymbols syms s) := by
  cases syms with
  | nil => exact onlyResults_endStream s
  | cons sym syms =>
    refine .ite (.error _) (.andThen (.after (onlyResults_lzwLoop syms _) rfl) fun t => ?_)
    exact .andThen (onlyResults_putCode _ _ t) onlyResults_endStream

theorem onlyResults_lzwStream (depth n : Nat) (s : State) : OnlyResults s (lzwStream depth n s) := by
  have hopen : OnlyResults s (openStream depth s) :=
    .andThen (.after (onlyResults_outByte _ _) rfl) fun _ => .after (onlyResults_putCode _ _ _) rfl
  exact .andThen hopen (onlyResults_encodeSymbols _)

/-! ### Units U5, U1 and U2 -/

theorem onlyResults_writeHeader (w h : Half) (s : State) : OnlyResults s (writeHeader w h s) :=
  .andThen (onlyResults_outBytes _ s) fun t => .andThen (onlyResults_outBytes _ t) (onlyResults_outBytes _)

theorem onlyResults_writeFrame (w h d : Half) (s : State) : OnlyResults s (writeFrame w h d s) :=
  .andThen (onlyResults_outBytes _ s) fun t => .andThen (onlyResults_outBytes _ t) fun u =>
    .andThen (onlyResults_outBytes _ u) (onlyResults_lzwStream _ _)

theorem sameButResults_sampleFrame (n : Nat) (s : State) : SameButResults s (sampleFrame n s) := by
  rw [sampleFrame]
  split <;> rfl

theorem sameButResults_medianCut (s : State) : SameButResults s (medianCut s) := rfl

theorem sameButResults_indexFrame (n : Nat) (s : State) : SameButResults s (indexFrame n s) := rfl

/-- FRAME samples, quantizes and indexes before it writes (rule R208). -/
theorem sameButResults_indexedFrame (n : Nat) (s : State) :
    SameButResults s (indexFrame n (medianCut (sampleFrame n s))) :=
  ((sameButResults_sampleFrame n s).trans (sameButResults_medianCut _)).trans (sameButResults_indexFrame n _)

/-! ### The bodies of the commands -/

theorem onlyResults_testCancel {f : State → Except ErrCode State} {s : State} (h : OnlyResults s (f s)) :
    OnlyResults s (testCancel f s) :=
  .ite (.error _) h

theorem onlyResults_runBegin (s : State) : OnlyResults s (runBegin s) :=
  .ite (.error _) (.ite (.error _) (.andThen (onlyResults_writeHeader _ _ s) fun _ => onlyResults_testCancel (.ok rfl)))

theorem onlyResults_finishFrame (s : State) : OnlyResults s (finishFrame s) :=
  .ite (.andThen (onlyResults_outByte _ s) fun _ => .ok rfl) (.ok rfl)

theorem onlyResults_runFrame (s : State) : OnlyResults s (runFrame s) := by
  refine .ite (.error _) (.andThen ?_ fun t => onlyResults_testCancel (onlyResults_finishFrame t))
  exact .after (onlyResults_writeFrame _ _ _ _) (sameButResults_indexedFrame _ s)

/-- The state in which a command's errors are raised differs in the results at most. -/
theorem sameButResults_bodyOf (s : State) : SameButResults s (bodyOf s).1 := by
  rw [bodyOf]
  cases s.curOp <;> rfl

/-- The body of a running command changes the results at most. -/
theorem onlyResults_bodyOf (s : State) : OnlyResults s (bodyOf s).2 := by
  rw [bodyOf]
  cases s.curOp with
  | begin => exact .after (onlyResults_runBegin (startConversion s)) rfl
  | frame => exact onlyResults_runFrame s
  | sample => exact .ite (.error _) (.ok (sameButResults_sampleFrame _ s))
  | mcut => exact .ok (sameButResults_medianCut s)
  | index => exact .ite (.error _) (.ok (sameButResults_indexFrame _ s))
  | lzw depth => exact .after (onlyResults_lzwStream _ _ (dropOutput s)) rfl

/-- CMD_REJ is not touched by a completion, with or without an error (rule R23). -/
theorem complete_cmdRej (s : State) : (complete s).cmdRej = s.cmdRej := by
  rcases complete_cases s with ⟨t, ht, h⟩ | ⟨k, -, h⟩
  · rw [h]
    exact (onlyResults_bodyOf s t ht).cmdRej
  · rw [h, errorEntry_cmdRej, (sameButResults_bodyOf s).cmdRej]

end Sys2Proof.Machine
end

section
/-! SUPPORT. The nine commands as NOP, CANCEL, CLEAR and the six that are issued, and what makes an issued one legal
(rules R94, R205). -/

namespace Sys2Proof.Machine

/-- The phase in which an issued command is legal (rule R94). -/
def IssuedOp.legalPhase (op : IssuedOp) : Phase := if op = .frame then .opened else .idle

/-- Three commands act at once; each of the others is the command of an issued operation. -/
theorem instr_cases (i : Instr) : i = .nop ∨ i = .cancel ∨ i = .clear ∨ ∃ op : IssuedOp, i = op.instr := by
  cases i with
  | nop => exact .inl rfl
  | cancel => exact .inr (.inl rfl)
  | clear => exact .inr (.inr (.inl rfl))
  | begin => exact .inr (.inr (.inr ⟨.begin, rfl⟩))
  | frame => exact .inr (.inr (.inr ⟨.frame, rfl⟩))
  | sample => exact .inr (.inr (.inr ⟨.sample, rfl⟩))
  | mcut => exact .inr (.inr (.inr ⟨.mcut, rfl⟩))
  | index => exact .inr (.inr (.inr ⟨.index, rfl⟩))
  | lzw depth => exact .inr (.inr (.inr ⟨.lzw depth, rfl⟩))

theorem legal_instr_iff (op : IssuedOp) (s : State) :
    Legal op.instr s ↔ s.busy = false ∧ s.phase = op.legalPhase := by
  cases op <;> rfl

/-- An issued command is launched in the phase in which it is legal. -/
theorem exec_instr (op : IssuedOp) (hwf : op.instr.wf = true) (s : State) :
    exec op.instr s = launchIn op.legalPhase op s := by
  cases op with
  | lzw depth => exact exec_lzw_of_wf hwf s
  | _ => rfl

theorem exec_nop_of_idle {s : State} (hb : s.busy = false) : exec .nop s = .next s :=
  if_neg (by simp [hb])

theorem exec_clear_of_idle {s : State} (hb : s.busy = false) : exec .clear s = .next (backToIdle s) :=
  if_neg (by simp [hb])

theorem exec_cancel_of_opened {s : State} (hb : s.busy = false) (hp : s.phase = .opened) :
    exec .cancel s = .next (errorEntry .cancelled s) :=
  (if_neg (by simp [hb])).trans (if_pos hp)

theorem exec_cancel_of_not_opened {s : State} (hb : s.busy = false) (hp : s.phase ≠ .opened) :
    exec .cancel s = .next s :=
  (if_neg (by simp [hb])).trans (if_neg hp)

/-- Launching a legal command leaves CMD_REJ as it is, whether the command completes at once or is issued only. -/
theorem launchIn_of_legal {phase : Phase} {s : State} (h : s.busy = false ∧ s.phase = phase) (op : IssuedOp) :
    ∃ t, launchIn phase op s = .next t ∧ t.cmdRej = s.cmdRej := by
  rcases launchIn_cases phase op s with ⟨-, hl⟩ | ⟨-, -, -, hl⟩ | ⟨hillegal, -⟩
  · exact ⟨_, hl, complete_cmdRej _⟩
  · exact ⟨_, hl, rfl⟩
  · exact absurd h hillegal

/-- A well-formed command that is not legal is rejected (rules R94, R212). -/
theorem exec_of_illegal {i : Instr} {s : State} (hwf : i.wf = true) (h : ¬ Legal i s) :
    exec i s = .next (reject s) := by
  rcases instr_cases i with rfl | rfl | rfl | ⟨op, rfl⟩
  · exact exec_of_busy (Bool.eq_true_of_not_eq_false h) (by decide)
  · exact absurd trivial h
  · exact exec_of_busy (Bool.eq_true_of_not_eq_false h) (by decide)
  · rw [exec_instr op hwf, launchIn_of_illegal (mt (legal_instr_iff op s).mpr h)]

/-- CANCEL, legal in every state, leaves CMD_REJ as it is. -/
theorem exec_cancel_keeps_cmdRej (s : State) : ∃ t, exec .cancel s = .next t ∧ t.cmdRej = s.cmdRej := by
  cases hb : s.busy with
  | true => exact ⟨_, exec_cancel_of_busy hb, rfl⟩
  | false =>
    by_cases hp : s.phase = .opened
    · exact ⟨_, exec_cancel_of_opened hb hp, rfl⟩
    · exact ⟨_, exec_cancel_of_not_opened hb hp, rfl⟩

/-- A well-formed command that is legal does not set CMD_REJ: CLEAR takes it to 0, the others leave it as it is
(rules R94, R211, R212). -/
theorem exec_of_legal {i : Instr} {s : State} (hwf : i.wf = true) (h : Legal i s) :
    ∃ t, exec i s = .next t ∧ (t.cmdRej = true → s.cmdRej = true) := by
  rcases instr_cases i with rfl | rfl | rfl | ⟨op, rfl⟩
  · exact ⟨s, exec_nop_of_idle h, id⟩
  · obtain ⟨t, ht, hrej⟩ := exec_cancel_keeps_cmdRej s
    exact ⟨t, ht, fun htrue => hrej ▸ htrue⟩
  · exact ⟨_, exec_clear_of_idle h, nofun⟩
  · obtain ⟨t, ht, hrej⟩ := launchIn_of_legal ((legal_instr_iff op s).mp h) op
    exact ⟨t, (exec_instr op hwf s).trans ht, fun htrue => hrej ▸ htrue⟩

end Sys2Proof.Machine
end

section
/-! The obligation on the acceptance of commands. -/

namespace Sys2Proof.Machine

/-- Settles O10: an illegal command reaches `reject`; a legal one acts at once or is launched, and neither its issue nor
its completion touches CMD_REJ. -/
theorem commandAcceptedOrRejected : Obligations.CommandAcceptedOrRejected := by
  unfold Obligations.CommandAcceptedOrRejected
  exact fun i s hwf => ⟨exec_of_illegal hwf, exec_of_legal hwf, exec_cancel_of_not_opened, exec_nop_of_idle⟩

end Sys2Proof.Machine
end

section
/-! SUPPORT. The numbers of unit U1 about a list of colours: the largest and smallest value of a channel (rule R124),
and the sum and the rounded mean (rule R128). -/

namespace Sys2Proof.Machine

/-! ### Largest and smallest value of a channel -/

theorem chanMax_eq_foldl_map (cs : List Rgb) (c : Channel) :
    chanMax cs c = List.foldl max 0 (cs.map fun t => (t.chan c).toNat) := by
  rw [chanMax, List.foldl_map]

theorem chanMin_eq_foldl_map (cs : List Rgb) (c : Channel) :
    chanMin cs c = List.foldl min 255 (cs.map fun t => (t.chan c).toNat) := by
  rw [chanMin, List.foldl_map]

/-- The start value 0 of the scan for the maximum is below every channel value, so the maximum is attained. -/
theorem chanMax_attained {cs : List Rgb} (h : cs ≠ []) (c : Channel) :
    ∃ hi ∈ cs, chanMax cs c = (hi.chan c).toNat ∧ ∀ t ∈ cs, (t.chan c).toNat ≤ (hi.chan c).toNat := by
  have hne : (cs.map fun t => (t.chan c).toNat) ≠ [] := mt List.map_eq_nil_iff.mp h
  obtain ⟨m, hm⟩ := Option.ne_none_iff_exists'.mp (mt List.max?_eq_none_iff.mp hne)
  obtain ⟨hmem, hle⟩ := List.max?_eq_some_iff.mp hm
  obtain ⟨hi, hhi, rfl⟩ := List.mem_map.mp hmem
  refine ⟨hi, hhi, ?_, fun t ht => hle _ (List.mem_map_of_mem ht)⟩
  rw [chanMax_eq_foldl_map, List.foldl_max, hm, Option.getD_some, Nat.zero_max]

/-- The start value 255 of the scan for the minimum is above every channel value, so the minimum is attained. -/
theorem chanMin_attained {cs : List Rgb} (h : cs ≠ []) (c : Channel) :
    ∃ lo ∈ cs, chanMin cs c = (lo.chan c).toNat ∧ ∀ t ∈ cs, (lo.chan c).toNat ≤ (t.chan c).toNat := by
  have hne : (cs.map fun t => (t.chan c).toNat) ≠ [] := mt List.map_eq_nil_iff.mp h
  obtain ⟨m, hm⟩ := Option.ne_none_iff_exists'.mp (mt List.min?_eq_none_iff.mp hne)
  obtain ⟨hmem, hle⟩ := List.min?_eq_some_iff.mp hm
  obtain ⟨lo, hlo, rfl⟩ := List.mem_map.mp hmem
  refine ⟨lo, hlo, ?_, fun t ht => hle _ (List.mem_map_of_mem ht)⟩
  have hbyte : (lo.chan c).toNat ≤ 255 := Nat.le_of_lt_succ (lo.chan c).isLt
  rw [chanMin_eq_foldl_map, List.foldl_min, hm, Option.getD_some, Nat.min_eq_right hbyte]

/-! ### Sum and mean of a channel -/

theorem chanSum_eq_sum (cs : List Rgb) (c : Channel) :
    chanSum cs c = (cs.map fun t => (t.chan c).toNat).sum := by
  rw [chanSum, List.sum_eq_foldl, List.foldl_map]

theorem chanSum_le {cs : List Rgb} {c : Channel} {n : Nat} (h : ∀ t ∈ cs, (t.chan c).toNat ≤ n) :
    chanSum cs c ≤ cs.length * n := by
  rw [chanSum_eq_sum]
  simpa using List.sum_le_card_nsmul (cs.map fun t => (t.chan c).toNat) n (by simpa using h)

theorem le_chanSum {cs : List Rgb} {c : Channel} {n : Nat} (h : ∀ t ∈ cs, n ≤ (t.chan c).toNat) :
    cs.length * n ≤ chanSum cs c := by
  rw [chanSum_eq_sum]
  simpa using List.card_nsmul_le_sum (cs.map fun t => (t.chan c).toNat) n (by simpa using h)

/-- Rule R128's floor: the mean is the one integer within half a unit above and less than half a unit below. -/
theorem chanMean_bounds {cs : List Rgb} (h : cs ≠ []) (c : Channel) :
    2 * cs.length * chanMean cs c ≤ 2 * chanSum cs c + cs.length ∧
      2 * chanSum cs c + cs.length < 2 * cs.length * (chanMean cs c + 1) := by
  have hpos : 0 < 2 * cs.length := Nat.mul_pos Nat.zero_lt_two (List.length_pos_of_ne_nil h)
  exact ⟨Nat.mul_div_le _ _, Nat.lt_mul_div_succ _ hpos⟩

theorem chanMean_le {cs : List Rgb} (h : cs ≠ []) {c : Channel} {n : Nat} (hle : ∀ t ∈ cs, (t.chan c).toNat ≤ n) :
    chanMean cs c ≤ n := by
  have hpos := List.length_pos_of_ne_nil h
  have hsum := chanSum_le hle
  refine Nat.le_of_lt_succ (Nat.div_lt_of_lt_mul ?_)
  rw [Nat.mul_succ, Nat.mul_assoc]
  omega

theorem le_chanMean {cs : List Rgb} (h : cs ≠ []) {c : Channel} {n : Nat} (hle : ∀ t ∈ cs, n ≤ (t.chan c).toNat) :
    n ≤ chanMean cs c := by
  have hpos := List.length_pos_of_ne_nil h
  have hsum := le_chanSum hle
  rw [chanMean, Nat.le_div_iff_mul_le (by omega), Nat.mul_comm, Nat.mul_assoc]
  omega

/-- The mean of channel values is a channel value, so no bit of it is lost in the palette. -/
theorem toNat_chan_meanColour {cs : List Rgb} (h : cs ≠ []) (c : Channel) :
    ((meanColour cs).chan c).toNat = chanMean cs c := by
  have hbyte : chanMean cs c ≤ 255 := chanMean_le h fun t _ => Nat.le_of_lt_succ (t.chan c).isLt
  have hchan : (meanColour cs).chan c = BitVec.ofNat 8 (chanMean cs c) := by cases c <;> rfl
  rw [hchan, BitVec.toNat_ofNat]
  exact Nat.mod_eq_of_lt (Nat.lt_succ_of_le hbyte)

end Sys2Proof.Machine
end

section
/-! The obligations on the range and the mean of a channel. -/

namespace Sys2Proof.Machine

/-- Settles O41: the two scans of rule R124 attain the maximum and the minimum. -/
theorem channelRangeIsMaxMinusMin : Obligations.ChannelRangeIsMaxMinusMin := by
  unfold Obligations.ChannelRangeIsMaxMinusMin
  intro cs c hne
  obtain ⟨hi, hhi, hmax, hle⟩ := chanMax_attained hne c
  obtain ⟨lo, hlo, hmin, hge⟩ := chanMin_attained hne c
  exact ⟨hi, hhi, lo, hlo, fun t ht => ⟨hge t ht, hle t ht⟩, by rw [chanRange, hmax, hmin]⟩

/-- Settles O46: the mean is the floor of rule R128, between the smallest and the largest member. -/
theorem meanRoundsHalfUp : Obligations.MeanRoundsHalfUp := by
  unfold Obligations.MeanRoundsHalfUp
  intro cs c hne mean sum
  have hmean : mean = chanMean cs c := toNat_chan_meanColour hne c
  have hsum : sum = chanSum cs c := (chanSum_eq_sum cs c).symm
  obtain ⟨hi, hhi, -, hle⟩ := chanMax_attained hne c
  obtain ⟨lo, hlo, -, hge⟩ := chanMin_attained hne c
  obtain ⟨hlower, hupper⟩ := chanMean_bounds hne c
  rw [hmean, hsum]
  exact ⟨hlower, hupper, ⟨lo, hlo, le_chanMean hne hge⟩, ⟨hi, hhi, chanMean_le hne hle⟩⟩

end Sys2Proof.Machine
end

section
/-! SUPPORT. The scan of rule R125 as a fold over the list of its candidates, and what such a fold finds. -/

namespace Sys2Proof.Machine

/-! ### The candidates -/

/-- The candidates of one bucket in the order they are scanned: the channels R, G, B of a bucket with two or more
members. -/
def bucketCandidates (samples : List Rgb) (b : Nat) (bk : Bucket) : List Candidate :=
  if 2 ≤ bk.len then
    [Channel.red, .green, .blue].map fun c => ⟨b, c, chanRange (bucketMembers samples bk) c⟩
  else []

/-- The candidates of the buckets numbered from `b` up, in the order they are scanned. -/
def candidatesFrom (samples : List Rgb) (b : Nat) (bks : List Bucket) : List Candidate :=
  (bks.zipIdx b).flatMap fun p => bucketCandidates samples p.2 p.1

/-- The place of a candidate in the scan: lower buckets first, and within a bucket red before green before blue. -/
def Candidate.ScannedBefore (x y : Candidate) : Prop :=
  x.bucket < y.bucket ∨ (x.bucket = y.bucket ∧ x.channel.place < y.channel.place)

theorem mem_bucketCandidates {samples : List Rgb} {b : Nat} {bk : Bucket} {x : Candidate} :
    x ∈ bucketCandidates samples b bk ↔
      2 ≤ bk.len ∧ x = ⟨b, x.channel, chanRange (bucketMembers samples bk) x.channel⟩ := by
  obtain ⟨b', c, r⟩ := x
  rw [bucketCandidates]
  split
  · next h => cases c <;> simp [h]
  · next h => simp [h]

theorem mem_candidatesFrom {samples : List Rgb} {bks : List Bucket} {x : Candidate} :
    x ∈ candidatesFrom samples 0 bks ↔
      ∃ bk, bks[x.bucket]? = some bk ∧ 2 ≤ bk.len ∧ x.range = chanRange (bucketMembers samples bk) x.channel := by
  obtain ⟨b, c, r⟩ := x
  simp [candidatesFrom, List.mem_flatMap, mem_bucketCandidates, List.mem_zipIdx_iff_getElem?]

theorem pairwise_bucketCandidates (samples : List Rgb) (b : Nat) (bk : Bucket) :
    (bucketCandidates samples b bk).Pairwise Candidate.ScannedBefore := by
  rw [bucketCandidates]
  split
  · simp [Candidate.ScannedBefore, Channel.place]
  · exact .nil

theorem pairwise_candidatesFrom (samples : List Rgb) (b : Nat) (bks : List Bucket) :
    (candidatesFrom samples b bks).Pairwise Candidate.ScannedBefore := by
  have hnumbers : (bks.zipIdx b).Pairwise fun p q => p.2 < q.2 := by
    rw [← List.pairwise_map, List.zipIdx_map_snd]
    exact List.pairwise_lt_range'
  rw [candidatesFrom, List.pairwise_flatMap]
  refine ⟨fun p _ => pairwise_bucketCandidates samples p.2 p.1, hnumbers.imp fun hlt x hx y hy => .inl ?_⟩
  rw [(mem_bucketCandidates.mp hx).2, (mem_bucketCandidates.mp hy).2]
  exact hlt

/-! ### The scan -/

theorem scanBucket_eq_foldl (samples : List Rgb) (b : Nat) (bk : Bucket) (best : Option Candidate) :
    scanBucket samples b bk best = (bucketCandidates samples b bk).foldl better best := by
  rw [scanBucket, bucketCandidates]
  split <;> rfl

theorem scanFrom_eq_foldl (samples : List Rgb) (b : Nat) (bks : List Bucket) (best : Option Candidate) :
    scanFrom samples b bks best = (candidatesFrom samples b bks).foldl better best := by
  induction bks generalizing b best with
  | nil => rfl
  | cons bk rest ih =>
    rw [scanFrom, ih, scanBucket_eq_foldl, candidatesFrom, candidatesFrom, List.zipIdx_cons, List.flatMap_cons,
      List.foldl_append]

theorem select_eq_foldl (cut : CutState) :
    select cut = (candidatesFrom cut.samples 0 cut.buckets).foldl better none :=
  scanFrom_eq_foldl cut.samples 0 cut.buckets none

/-! ### What it finds -/

/-- `r` is the first of the candidates with the largest range, none when no range is above 0. -/
def FirstLargest (l : List Candidate) (r : Option Candidate) : Prop :=
  match r with
  | none => ∀ x ∈ l, x.range = 0
  | some best =>
    1 ≤ best.range ∧ ∃ before rest, l = before ++ best :: rest ∧ (∀ x ∈ before, x.range < best.range) ∧
      ∀ x ∈ rest, x.range ≤ best.range

/-- A candidate becomes the best when its range is above all those before it. -/
theorem firstLargest_append_self {l : List Candidate} {new : Candidate} (hpos : 1 ≤ new.range)
    (h : ∀ x ∈ l, x.range < new.range) : FirstLargest (l ++ [new]) (some new) :=
  ⟨hpos, l, [], rfl, h, nofun⟩

theorem FirstLargest.range_le {l : List Candidate} {best : Candidate} (h : FirstLargest l (some best)) :
    ∀ x ∈ l, x.range ≤ best.range := by
  obtain ⟨-, before, rest, rfl, hbefore, hrest⟩ := h
  intro x hx
  rcases List.mem_append.mp hx with hx | hx
  · exact (hbefore x hx).le
  · rcases List.mem_cons.mp hx with rfl | hx
    · exact le_rfl
    · exact hrest x hx

theorem FirstLargest.better {l : List Candidate} {best : Option Candidate} (h : FirstLargest l best)
    (new : Candidate) : FirstLargest (l ++ [new]) (better best new) := by
  cases best with
  | none =>
    have hzero : ∀ x ∈ l, x.range = 0 := h
    rw [Machine.better]
    split
    · next hpos => exact firstLargest_append_self hpos fun x hx => (hzero x hx).trans_lt hpos
    · next hpos =>
      refine fun x hx => (List.mem_append.mp hx).elim (hzero x) fun hx => ?_
      rw [List.mem_singleton.mp hx]
      exact Nat.eq_zero_of_not_pos hpos
  | some old =>
    rw [Machine.better]
    split
    · next hlt => exact firstLargest_append_self (by omega) fun x hx => (h.range_le x hx).trans_lt hlt
    · next hge =>
      obtain ⟨hpos, before, rest, rfl, hbefore, hrest⟩ := h
      refine ⟨hpos, before, rest ++ [new], by simp, hbefore, fun x hx => ?_⟩
      refine (List.mem_append.mp hx).elim (hrest x) fun hx => ?_
      rw [List.mem_singleton.mp hx]
      exact Nat.le_of_not_lt hge

theorem firstLargest_foldl_better (l : List Candidate) : FirstLargest l (l.foldl better none) := by
  induction l using List.reverseRecOn with
  | nil => exact nofun
  | append_singleton l new ih =>
    rw [List.foldl_append]
    exact ih.better new

theorem firstLargest_select (cut : CutState) :
    FirstLargest (candidatesFrom cut.samples 0 cut.buckets) (select cut) :=
  select_eq_foldl cut ▸ firstLargest_foldl_better _

/-- In a list in scan order, the first of the largest ranges is scanned before every other one as large. -/
theorem FirstLargest.lt_or_scannedBefore {l : List Candidate} {best : Candidate} (h : FirstLargest l (some best))
    (hl : l.Pairwise Candidate.ScannedBefore) {x : Candidate} (hx : x ∈ l) :
    x.range < best.range ∨ (x.range = best.range ∧ (x = best ∨ best.ScannedBefore x)) := by
  obtain ⟨-, before, rest, rfl, hbefore, hrest⟩ := h
  rcases List.mem_append.mp hx with hx | hx
  · exact .inl (hbefore x hx)
  · rcases List.mem_cons.mp hx with rfl | hx
    · exact .inr ⟨rfl, .inl rfl⟩
    · have hafter := List.rel_of_pairwise_cons (List.pairwise_append.mp hl).2.1 hx
      exact (hrest x hx).lt_or_eq.imp_right fun heq => ⟨heq, .inr hafter⟩

end Sys2Proof.Machine
end

section
/-! The obligation on the selection of what to split. -/

namespace Sys2Proof.Machine

/-- Settles O42: Select is the first of the largest ranges in the list of candidates, which lists every channel of every
bucket of two or more members in scan order. -/
theorem selectTakesFirstLargestRange : Obligations.SelectTakesFirstLargestRange := by
  unfold Obligations.SelectTakesFirstLargestRange
  intro cut
  have hmem : ∀ (b : Nat) (bk : Bucket) (c : Channel), cut.buckets[b]? = some bk → 2 ≤ bk.len →
      ⟨b, c, chanRange (bucketMembers cut.samples bk) c⟩ ∈ candidatesFrom cut.samples 0 cut.buckets :=
    fun b bk c hbk hlen => mem_candidatesFrom.mpr ⟨bk, hbk, hlen, rfl⟩
  have hfirst := firstLargest_select cut
  refine ⟨fun hnone b bk c hbk hlen => ?_, fun best hsome => ⟨?_, fun b bk c hbk hlen => ?_⟩⟩
  · rw [hnone] at hfirst
    exact hfirst _ (hmem b bk c hbk hlen)
  · rw [hsome] at hfirst
    obtain ⟨hpos, before, rest, hlist, -⟩ := hfirst
    have hbest : best ∈ candidatesFrom cut.samples 0 cut.buckets := by simp [hlist]
    obtain ⟨bk, hbk, hlen, hrange⟩ := mem_candidatesFrom.mp hbest
    exact ⟨bk, hbk, hlen, hrange, hpos⟩
  · rw [hsome] at hfirst
    refine (hfirst.lt_or_scannedBefore (pairwise_candidatesFrom _ _ _) (hmem b bk c hbk hlen)).imp_right ?_
    rintro ⟨hrange, rfl | hlt | ⟨hbucket, hplace⟩⟩
    · exact ⟨hrange, .inr ⟨rfl, le_rfl⟩⟩
    · exact ⟨hrange, .inl hlt⟩
    · exact ⟨hrange, .inr ⟨hbucket, hplace.le⟩⟩

end Sys2Proof.Machine
end

section
/-! SUPPORT. The sort of rule R126: the library's insertion sort, hence ascending and stable, and local to the
bucket; and the split of rule R127. -/

namespace Sys2Proof.Machine

/-- The order of the sort by a channel. -/
abbrev ChanLe (c : Channel) (t u : Rgb) : Prop := (t.chan c).toNat ≤ (u.chan c).toNat

theorem chanLe_total (c : Channel) : Std.Total (ChanLe c) := ⟨fun t u => Nat.le_total (t.chan c).toNat (u.chan c).toNat⟩

theorem chanLe_trans (c : Channel) : IsTrans Rgb (ChanLe c) := ⟨fun _ _ _ => Nat.le_trans⟩

theorem insertByChan_eq_orderedInsert (c : Channel) (t : Rgb) (cs : List Rgb) :
    insertByChan c t cs = cs.orderedInsert (ChanLe c) t := by
  induction cs with
  | nil => rfl
  | cons u us ih => rw [insertByChan, ih, List.orderedInsert_cons]

theorem sortByChan_eq_insertionSort (c : Channel) (cs : List Rgb) :
    sortByChan c cs = cs.insertionSort (ChanLe c) := by
  induction cs with
  | nil => rfl
  | cons t ts ih => rw [sortByChan, insertByChan_eq_orderedInsert, ih, List.insertionSort_cons]

theorem sortByChan_perm (c : Channel) (cs : List Rgb) : (sortByChan c cs).Perm cs := by
  rw [sortByChan_eq_insertionSort]
  exact List.perm_insertionSort _ cs

@[simp] theorem length_sortByChan (c : Channel) (cs : List Rgb) : (sortByChan c cs).length = cs.length :=
  (sortByChan_perm c cs).length_eq

theorem sortByChan_pairwise (c : Channel) (cs : List Rgb) : (sortByChan c cs).Pairwise (ChanLe c) := by
  have := chanLe_total c
  have := chanLe_trans c
  rw [sortByChan_eq_insertionSort]
  exact List.pairwise_insertionSort _ cs

/-- Stability: the members with one value of the channel are in order already, so they stay a sublist, and no further
member has that value. -/
theorem filter_sortByChan (c : Channel) (v : Byte) (cs : List Rgb) :
    (sortByChan c cs).filter (fun t => t.chan c == v) = cs.filter fun t => t.chan c == v := by
  have hordered : (cs.filter fun t => t.chan c == v).Pairwise (ChanLe c) := by
    refine List.pairwise_of_forall_mem_list fun t ht u hu => ?_
    have htv : t.chan c = v := by simpa using (List.mem_filter.mp ht).2
    have huv : u.chan c = v := by simpa using (List.mem_filter.mp hu).2
    rw [ChanLe, htv, huv]
  have hsublist : (cs.filter fun t => t.chan c == v).Sublist (sortByChan c cs) := by
    rw [sortByChan_eq_insertionSort]
    exact List.sublist_insertionSort hordered List.filter_sublist
  have hkept := hsublist.filter fun t => t.chan c == v
  rw [List.filter_filter] at hkept
  simp only [Bool.and_self] at hkept
  exact (hkept.eq_of_length ((sortByChan_perm c cs).filter _).length_eq.symm).symm

/-! ### In place -/

theorem length_bucketMembers {samples : List Rgb} {bk : Bucket} (h : bk.start + bk.len ≤ samples.length) :
    (bucketMembers samples bk).length = bk.len := by
  simp only [bucketMembers, List.length_take, List.length_drop]
  omega

/-- The bucket holds the sorted members. -/
theorem bucketMembers_sortBucket {samples : List Rgb} {bk : Bucket} (h : bk.start + bk.len ≤ samples.length)
    (c : Channel) : bucketMembers (sortBucket samples bk c) bk = sortByChan c (bucketMembers samples bk) := by
  have hstart : (samples.take bk.start).length = bk.start := List.length_take_of_le (by omega)
  have hlen : (sortByChan c (bucketMembers samples bk)).length = bk.len := by
    rw [length_sortByChan, length_bucketMembers h]
  rw [bucketMembers, sortBucket, List.append_assoc, List.drop_left' hstart, List.take_left' hlen]

/-- Samples outside the bucket do not move. -/
theorem getElem?_sortBucket_of_outside {samples : List Rgb} {bk : Bucket} (h : bk.start + bk.len ≤ samples.length)
    (c : Channel) {j : Nat} (hj : j < bk.start ∨ bk.start + bk.len ≤ j) :
    (sortBucket samples bk c)[j]? = samples[j]? := by
  have hstart : (samples.take bk.start).length = bk.start := List.length_take_of_le (by omega)
  have hlen : (sortByChan c (bucketMembers samples bk)).length = bk.len := by
    rw [length_sortByChan, length_bucketMembers h]
  rcases hj with hj | hj
  · rw [sortBucket, List.append_assoc, List.getElem?_append_left (hstart.symm ▸ hj), List.getElem?_take_of_lt hj]
  · have hfront : (samples.take bk.start ++ sortByChan c (bucketMembers samples bk)).length = bk.start + bk.len := by
      rw [List.length_append, hstart, hlen]
    rw [sortBucket, List.getElem?_append_right (hfront.symm ▸ hj), hfront, List.getElem?_drop, Nat.add_sub_of_le hj]

/-! ### The split -/

theorem splitBucket_of_getElem? {cut : CutState} {best : Candidate} {bk : Bucket}
    (h : cut.buckets[best.bucket]? = some bk) :
    splitBucket cut best =
      { samples := sortBucket cut.samples bk best.channel
        buckets := cut.buckets.set best.bucket ⟨bk.start, bk.len / 2⟩ ++
          [⟨bk.start + bk.len / 2, bk.len - bk.len / 2⟩] } := by
  rw [splitBucket, h]

end Sys2Proof.Machine
end

section
/-! The obligations on the sort and the split of a bucket. -/

namespace Sys2Proof.Machine

/-- Settles O43: the members are sorted by the library's stable insertion sort, in their place. -/
theorem sortIsStable : Obligations.SortIsStable := by
  unfold Obligations.SortIsStable
  intro samples bk c hbk before after
  have hafter : after = sortByChan c before := bucketMembers_sortBucket hbk c
  rw [hafter]
  exact ⟨sortByChan_perm c before, sortByChan_pairwise c before, fun v => filter_sortByChan c v before,
    fun j => getElem?_sortBucket_of_outside hbk c⟩

/-- Settles O44: the split replaces one entry of BKT and appends one. -/
theorem splitAtMedian : Obligations.SplitAtMedian := by
  unfold Obligations.SplitAtMedian
  intro cut best bk hbk hlen
  have hlt : best.bucket < cut.buckets.length := (List.getElem?_eq_some_iff.mp hbk).1
  rw [splitBucket_of_getElem? hbk]
  refine ⟨rfl, by simp, ?_, by simp, by omega, by omega, fun b hb hne => ?_⟩
  · rw [List.getElem?_append_left (by simpa using hlt), List.getElem?_set_self hlt]
  · rw [List.getElem?_append_left (by simpa using hb), List.getElem?_set_ne hne.symm]

end Sys2Proof.Machine
end

section
/-! SUPPORT. The ceiling of rule R10, and a list of colours written to a memory and read back (rules R38, R41, R65). -/

namespace Sys2Proof.Machine

/-! ### The ceiling -/

/-- `ceilDiv` is the library's `⌈/⌉`, characterised by its upper bounds. -/
theorem ceilDiv_le_iff {a b c : Nat} (hb : 0 < b) : ceilDiv a b ≤ c ↔ a ≤ b * c := by
  rw [ceilDiv, ← Nat.ceilDiv_eq_add_pred_div]
  exact ceilDiv_le_iff_le_mul hb

theorem lt_ceilDiv_iff {a b c : Nat} (hb : 0 < b) : c < ceilDiv a b ↔ b * c < a := by
  rw [← not_le, ceilDiv_le_iff hb, not_le]

theorem ceilDiv_pos {a b : Nat} (ha : 0 < a) (hb : 0 < b) : 0 < ceilDiv a b :=
  (lt_ceilDiv_iff hb).mpr ha

theorem ceilDiv_le_self (a : Nat) {b : Nat} (hb : 0 < b) : ceilDiv a b ≤ a :=
  (ceilDiv_le_iff hb).mpr (Nat.le_mul_of_pos_left a hb)

/-! ### Colours in a memory -/

@[simp] theorem length_flatMap_bytes (cs : List Rgb) : (cs.flatMap Rgb.bytes).length = 3 * cs.length := by
  simp [List.length_flatMap, Rgb.bytes, Nat.mul_comm]

/-- Colour `j` of the list is its three bytes from offset `3 * j` on (rule R65). -/
theorem getElem?_flatMap_bytes {cs : List Rgb} {j k : Nat} {t : Rgb} (h : cs[j]? = some t) (hk : k < 3) :
    (cs.flatMap Rgb.bytes)[3 * j + k]? = t.bytes[k]? := by
  induction cs generalizing j with
  | nil => cases h
  | cons u us ih =>
    rw [List.flatMap_cons]
    cases j with
    | zero =>
      obtain rfl : u = t := Option.some.inj h
      rw [Nat.mul_zero, Nat.zero_add, List.getElem?_append_left hk]
    | succ j =>
      have hlen : u.bytes.length = 3 := rfl
      have hskip : 3 * (j + 1) + k - 3 = 3 * j + k := by omega
      rw [List.getElem?_append_right (by omega), hlen, hskip, ih h]

/-- A colour written to a memory reads back. -/
theorem rgbAt_setBytes_flatMap (s : State) (sp : Space) {cs : List Rgb} {j : Nat} {t : Rgb} (h : cs[j]? = some t) :
    (s.setBytes sp 0 (cs.flatMap Rgb.bytes)).rgbAt sp (3 * j) = t := by
  have hj : j < cs.length := (List.getElem?_eq_some_iff.mp h).1
  have hbyte : ∀ k < 3, (s.setBytes sp 0 (cs.flatMap Rgb.bytes)).byte sp (3 * j + k) = t.bytes[k]?.getD 0 := by
    intro k hk
    rw [byte_setBytes, if_pos (by rw [length_flatMap_bytes]; omega), Nat.sub_zero, getElem?_flatMap_bytes h hk]
  have hred := hbyte 0 (by decide)
  rw [Nat.add_zero] at hred
  rw [State.rgbAt, hred, hbyte 1 (by decide), hbyte 2 (by decide)]
  rfl

/-- The bytes behind the colours written are as before. -/
theorem byte_setBytes_flatMap_of_le (s : State) (sp : Space) (cs : List Rgb) {x : Nat} (hx : 3 * cs.length ≤ x) :
    (s.setBytes sp 0 (cs.flatMap Rgb.bytes)).byte sp x = s.byte sp x := by
  rw [byte_setBytes, if_neg (by rw [length_flatMap_bytes]; omega)]

end Sys2Proof.Machine
end

section
/-! SUPPORT. The procedure Sample (rule R121) and the completion of SAMPLE (rule R122). -/

namespace Sys2Proof.Machine

@[simp] theorem length_sampledPixels (s : State) (n stride : Nat) :
    (sampledPixels s n stride).length = ceilDiv n stride := by
  simp [sampledPixels]

theorem getElem?_sampledPixels (s : State) {n stride j : Nat} (hj : j < ceilDiv n stride) :
    (sampledPixels s n stride)[j]? = some (s.pixel (j * stride)) := by
  simp [sampledPixels, hj]

theorem sampleStride_pos {n budget : Nat} (hn : 0 < n) (hbudget : 0 < budget) : 0 < sampleStride n budget :=
  ceilDiv_pos hn hbudget

/-- The stride of rule R121 keeps the count within the budget. -/
theorem ceilDiv_sampleStride_le {n budget : Nat} (hn : 0 < n) (hbudget : 0 < budget) :
    ceilDiv n (sampleStride n budget) ≤ budget := by
  rw [ceilDiv_le_iff (sampleStride_pos hn hbudget), Nat.mul_comm, sampleStride, ← ceilDiv_le_iff hbudget]

/-- Sample writes its samples, their number and the stride, whatever the frame. -/
theorem sampleFrame_frame (n : Nat) (s : State) :
    sampleFrame n s =
      { s with
        smp := (sampleFrame n s).smp, smpCount := (sampleFrame n s).smpCount, stride := (sampleFrame n s).stride } := by
  rw [sampleFrame]
  split <;> rfl

theorem sampleFrame_zero (s : State) : sampleFrame 0 s = { s with stride := 1, smpCount := 0 } := rfl

section NonemptyFrame

variable {n : Nat} {s : State} (hn : 0 < n) (hbudget : 0 < s.params.sampleBudget) (hsmall : n < 2 ^ 32)
include hn

theorem sampleFrame_of_pos :
    sampleFrame n s =
      { s.setSamples (sampledPixels s n (sampleStride n s.params.sampleBudget)) with
        stride := BitVec.ofNat 32 (sampleStride n s.params.sampleBudget)
        smpCount := BitVec.ofNat 32 (ceilDiv n (sampleStride n s.params.sampleBudget)) } :=
  if_neg hn.ne'

include hbudget hsmall

theorem sampleFrame_stride : (sampleFrame n s).stride.toNat = sampleStride n s.params.sampleBudget := by
  rw [sampleFrame_of_pos hn, BitVec.toNat_ofNat]
  exact Nat.mod_eq_of_lt ((ceilDiv_le_self n hbudget).trans_lt hsmall)

theorem sampleFrame_smpCount :
    (sampleFrame n s).smpCount.toNat = ceilDiv n (sampleStride n s.params.sampleBudget) := by
  rw [sampleFrame_of_pos hn, BitVec.toNat_ofNat]
  exact Nat.mod_eq_of_lt ((ceilDiv_le_self n (sampleStride_pos hn hbudget)).trans_lt hsmall)

theorem sampleAt_sampleFrame {j : Nat} (hj : j < (sampleFrame n s).smpCount.toNat) :
    (sampleFrame n s).sampleAt j = s.pixel (j * (sampleFrame n s).stride.toNat) := by
  rw [sampleFrame_smpCount hn hbudget hsmall] at hj
  rw [sampleFrame_stride hn hbudget hsmall, sampleFrame_of_pos hn]
  exact rgbAt_setBytes_flatMap s .smp (getElem?_sampledPixels s hj)

/-- What Sample gives on a frame with pixels (rule R121). -/
theorem sampleFrame_spec :
    (sampleFrame n s).stride.toNat = ceilDiv n s.params.sampleBudget ∧
      (sampleFrame n s).smpCount.toNat = ceilDiv n (sampleFrame n s).stride.toNat ∧
      1 ≤ (sampleFrame n s).smpCount.toNat ∧ (sampleFrame n s).smpCount.toNat ≤ s.params.sampleBudget ∧
      ∀ j, j < (sampleFrame n s).smpCount.toNat →
        j * (sampleFrame n s).stride.toNat < n ∧
          (sampleFrame n s).sampleAt j = s.pixel (j * (sampleFrame n s).stride.toNat) := by
  have hpos := sampleStride_pos hn hbudget
  have hstride := sampleFrame_stride hn hbudget hsmall
  have hcount := sampleFrame_smpCount hn hbudget hsmall
  refine ⟨hstride, by rw [hcount, hstride], ?_, ?_, fun j hj => ⟨?_, sampleAt_sampleFrame hn hbudget hsmall hj⟩⟩
  · exact hcount ▸ ceilDiv_pos hn hpos
  · exact hcount ▸ ceilDiv_sampleStride_le hn hbudget
  · rw [hstride, Nat.mul_comm]
    exact (lt_ceilDiv_iff hpos).mp (hcount ▸ hj)

end NonemptyFrame

/-- The bytes of SMP that hold no sample are as before. -/
theorem byte_sampleFrame_of_le {n : Nat} {s : State} (hbudget : 0 < s.params.sampleBudget) (hsmall : n < 2 ^ 32)
    {x : Nat} (hx : 3 * (sampleFrame n s).smpCount.toNat ≤ x) : (sampleFrame n s).byte .smp x = s.byte .smp x := by
  rcases Nat.eq_zero_or_pos n with rfl | hn
  · rfl
  · rw [sampleFrame_smpCount hn hbudget hsmall, ← length_sampledPixels s] at hx
    rw [sampleFrame_of_pos hn]
    exact byte_setBytes_flatMap_of_le s .smp _ hx

/-! ### The command -/

/-- SAMPLE on a frame that fits FB takes its samples and lets the working registers go. -/
theorem exec_sample_of_ready {s : State} (h : Ready .idle s) (hfits : s.framePixels ≤ s.params.maxPixels) :
    exec .sample s = .next { forgetWorking (sampleFrame s.framePixels (issue .sample s)) with busy := false } := by
  have hbody : runSample (issue .sample s) = .ok (sampleFrame s.framePixels (issue .sample s)) :=
    if_neg (Nat.not_lt.mpr hfits)
  calc exec .sample s = .next (complete (issue .sample s)) := launchIn_of_ready h .sample
    _ = .next (conclude (issue .sample s) (runSample (issue .sample s))) := rfl
    _ = _ := by rw [hbody, conclude_ok]

/-- Besides its results SAMPLE writes the working registers only. -/
theorem sample_completion_frame {s u : State} (hb : s.busy = false)
    (hu : u = { issue .sample s with smp := u.smp, smpCount := u.smpCount, stride := u.stride }) :
    { forgetWorking u with busy := false } =
      { s with
        smp := u.smp, smpCount := u.smpCount, stride := u.stride
        curOp := (forgetWorking u).curOp, lzw := (forgetWorking u).lzw, pack := (forgetWorking u).pack
        draws := (forgetWorking u).draws } := by
  rw [hu, hb]
  rfl

end Sys2Proof.Machine
end

section
/-! The obligation on SAMPLE. -/

namespace Sys2Proof.Machine

/-- Settles O39: SAMPLE completes with what Sample gives, and all counts fit their registers because MAX_PIXELS is below
`2 ^ 32`. -/
theorem sampleTakesEveryStridethPixel : Obligations.SampleTakesEveryStridethPixel := by
  unfold Obligations.SampleTakesEveryStridethPixel
  intro s hinv hready n hfits
  obtain ⟨hbudget, -, hmax, -, -⟩ := hinv.params
  have hsmall : n < 2 ^ 32 := (hfits.trans hmax).trans_lt (by decide)
  refine ⟨_, exec_sample_of_ready hready hfits, fun hzero => ?_,
    fun hn => sampleFrame_spec (s := issue .sample s) hn hbudget hsmall,
    fun x => byte_sampleFrame_of_le (s := issue .sample s) hbudget hsmall,
    sample_completion_frame hready.idle (sampleFrame_frame n _)⟩
  have hempty : s.framePixels = 0 := hzero
  rw [hempty, sampleFrame_zero]
  exact ⟨rfl, rfl⟩

end Sys2Proof.Machine
end

section
/-! SUPPORT. What CLEAR leaves behind (rule R211). -/

namespace Sys2Proof.Machine

/-- The flags of STATUS are the phase and three bits, and the return to IDLE leaves only BUSY as it finds it. -/
theorem statusWord_backToIdle {s : State} (hb : s.busy = false) : (backToIdle s).statusWord = 0 := by
  simp only [State.statusWord, State.doneFlag, State.errFlag, backToIdle_phase, backToIdle_cmdRej,
    backToIdle_cancelReq, backToIdle_busy, hb]
  decide

/-- The registers that the return to IDLE writes; of the memories it writes OUT only. -/
theorem backToIdle_frame (s : State) :
    backToIdle s =
      { s with
        phase := .idle, errCode := .noError, errFrame := 0, framesDone := 0, outLen := 0
        cancelReq := false, cmdRej := false, out := (backToIdle s).out } := rfl

end Sys2Proof.Machine
end

section
/-! The obligations on NOP and CLEAR. -/

namespace Sys2Proof.Machine

/-- Settles O25: an idle core answers with the state as it is, a busy one rejects every command but CANCEL. -/
theorem nopChangesNothing : Obligations.NopChangesNothing := by
  unfold Obligations.NopChangesNothing
  exact fun s => ⟨exec_nop_of_idle, fun hb => exec_of_busy hb (by decide)⟩

/-- Settles O26: CLEAR on an idle core is the return to IDLE. -/
theorem clearReturnsToIdle : Obligations.ClearReturnsToIdle := by
  unfold Obligations.ClearReturnsToIdle
  exact fun s hb => ⟨backToIdle s, exec_clear_of_idle hb, statusWord_backToIdle hb, backToIdle_frame s⟩

end Sys2Proof.Machine
end

section
/-! SUPPORT. The command word and its fields: a word is its three fields, and the decoder reads the command whose
opcode and operand stand in them (rules R90 to R93). -/

namespace Sys2Proof.Machine

/-- A command word is RSV, ARG and OP, from the top bit down (rule R90). -/
theorem fields_append_eq (w : Word) : fieldRsv w ++ fieldArg w ++ fieldOp w = w := by
  apply BitVec.eq_of_getLsbD_eq
  intro i hi
  simp only [fieldRsv, fieldArg, fieldOp, BitVec.getLsbD_append, BitVec.getLsbD_extractLsb']
  by_cases h8 : i < 8
  · simp [h8]
  · by_cases h12 : i < 12
    · have h : i - 8 < 4 := by omega
      simp [h8, h]
      congr 1
      omega
    · have h : ¬ i - 8 < 4 := by omega
      have h' : i - 8 - 4 < 20 := by omega
      simp [h8, h, h']
      congr 1
      omega

/-- A word whose RSV is 0 is the encoding of every command with its opcode and its operand. -/
theorem encode_eq_of_fields {w : Word} {i : Instr} (hrsv : fieldRsv w = 0) (hop : fieldOp w = opcode i)
    (harg : fieldArg w = argument i) : encode i = w := by
  rw [encode, ← hop, ← harg, ← hrsv, fields_append_eq]

theorem plainCommand_eq_ok {arg : BitVec 4} {i j : Instr} : plainCommand arg i = .ok j ↔ arg = 0 ∧ i = j := by
  rw [plainCommand]
  split <;> simp_all

theorem lzwCommand_eq_ok {arg : BitVec 4} {j : Instr} :
    lzwCommand arg = .ok j ↔ (Instr.lzw arg).wf = true ∧ .lzw arg = j := by
  rw [lzwCommand]
  split <;> simp_all

/-- A command that is read is well formed, and the word holds its opcode and its operand. -/
theorem fields_of_decode {w : Word} {i : Instr} (h : decode w = .ok i) :
    i.wf = true ∧ fieldRsv w = 0 ∧ fieldOp w = opcode i ∧ fieldArg w = argument i := by
  rw [decode] at h
  split at h
  · next hrsv =>
    split at h
    case h_9 hop =>
      obtain ⟨hwf, rfl⟩ := lzwCommand_eq_ok.mp h
      exact ⟨hwf, hrsv, BitVec.eq_of_toNat_eq hop, rfl⟩
    case h_10 => cases h
    all_goals
      next hop =>
      obtain ⟨harg, rfl⟩ := plainCommand_eq_ok.mp h
      exact ⟨rfl, hrsv, BitVec.eq_of_toNat_eq hop, harg⟩
  · cases h

theorem decode_encode {i : Instr} (h : i.wf = true) : decode (encode i) = .ok i := by
  cases i with
  | lzw depth =>
    revert depth
    decide
  | _ => decide

end Sys2Proof.Machine
end

section
/-! The obligations on the command word. -/

namespace Sys2Proof.Machine

/-- Settles O2: a word that is read consists of the fields of its command, and the encoding of a well-formed command
reads back. -/
theorem decodeInvertsEncode : Obligations.DecodeInvertsEncode := by
  unfold Obligations.DecodeInvertsEncode
  refine fun w i => ⟨fun h => ?_, fun ⟨hwf, henc⟩ => henc ▸ decode_encode hwf⟩
  obtain ⟨hwf, hrsv, hop, harg⟩ := fields_of_decode h
  exact ⟨hwf, encode_eq_of_fields hrsv hop harg⟩

/-- Settles O1: the decoder evaluates on each of the eleven words. -/
theorem commandWordsDecode : Obligations.CommandWordsDecode := by
  unfold Obligations.CommandWordsDecode
  decide

end Sys2Proof.Machine
end

section
/-! SUPPORT. What error entry writes and keeps (rule R236), and which commands end in it without running. -/

namespace Sys2Proof.Machine

theorem inError_errorEntry (k : ErrCode) (s : State) : InError k s (errorEntry k s) where
  phase := rfl
  code := rfl
  frame := rfl
  output := rfl
  busy := rfl
  cancelReq := rfl
  smpCount := by
    rw [errorEntry_smpCount, BitVec.toNat_ofNat]
    exact (Nat.mod_le _ _).trans (Nat.le_of_lt_succ (Nat.mod_lt _ (Nat.succ_pos _)))
  bktCount := by
    rw [errorEntry_bktCount, BitVec.toNat_ofNat]
    exact (Nat.mod_le _ _).trans (freeBktCount_le s)
  idxLen := by
    rw [errorEntry_idxLen, BitVec.toNat_ofNat]
    exact (Nat.mod_le _ _).trans (Nat.le_of_lt_succ (Nat.mod_lt _ (Nat.succ_pos _)))
  bkt := errorEntry_bkt_length k s
  kept := rfl

/-- Issuing a command changes nothing that error entry keeps. -/
theorem InError.of_issue {k : ErrCode} {op : IssuedOp} {s t : State} (h : InError k (issue op s) t) : InError k s t :=
  ⟨h.phase, h.code, h.frame, h.output, h.busy, h.cancelReq, h.smpCount, h.bktCount, h.idxLen, h.bkt, h.kept⟩

/-- The first line of BEGIN writes nothing that error entry keeps but FRAMES_DONE (rule R207). -/
theorem InError.of_startConversion {k : ErrCode} {s t : State} (h : InError k (startConversion s) t) :
    InError k { s with framesDone := 0 } t :=
  ⟨h.phase, h.code, h.frame, h.output, h.busy, h.cancelReq, h.smpCount, h.bktCount, h.idxLen, h.bkt, h.kept⟩

/-! ### Completion of a command that is ready -/

/-- A well-formed command that is ready completes at once. -/
theorem exec_of_ready {op : IssuedOp} (hwf : op.instr.wf = true) {s : State} (h : Ready op.legalPhase s) :
    exec op.instr s = .next (complete (issue op s)) := by
  rw [exec_instr op hwf, launchIn_of_ready h]

theorem complete_of_begin {s : State} (h : s.curOp = .begin) :
    complete s = conclude (startConversion s) (runBegin (startConversion s)) := by
  rw [complete, h]

theorem complete_of_frame {s : State} (h : s.curOp = .frame) : complete s = conclude s (runFrame s) := by
  rw [complete, h]

theorem complete_of_sample {s : State} (h : s.curOp = .sample) : complete s = conclude s (runSample s) := by
  rw [complete, h]

theorem complete_of_index {s : State} (h : s.curOp = .index) : complete s = conclude s (runIndex s) := by
  rw [complete, h]

theorem runFrame_of_mismatch {s : State} (h : s.frameW ≠ s.width ∨ s.frameH ≠ s.height) :
    runFrame s = .error .dimensionMismatch :=
  if_pos h

theorem runSample_of_large {s : State} (h : s.params.maxPixels < s.framePixels) :
    runSample s = .error .badDimension :=
  if_pos h

theorem runIndex_of_large {s : State} (h : s.params.maxPixels < s.framePixels) :
    runIndex s = .error .badDimension :=
  if_pos h

end Sys2Proof.Machine
end

section
/-! The obligations on error entry, on CANCEL by state, and on frames that are refused before anything is written. -/

namespace Sys2Proof.Machine

/-- Settles O28: error entry gives every field its value, and the free counts are remainders of their bounds. -/
theorem errorEntryState : Obligations.ErrorEntryState := by
  unfold Obligations.ErrorEntryState
  exact inError_errorEntry

/-- Settles O27: CANCEL on an idle core is error entry in phase OPEN and nothing elsewhere; on a busy one it sets the
request exactly for BEGIN and FRAME. -/
theorem cancelByState : Obligations.CancelByState := by
  unfold Obligations.CancelByState
  refine fun s => ⟨fun hb hp => ⟨_, exec_cancel_of_opened hb hp, inError_errorEntry _ s⟩, fun hb hop => ?_,
    fun hb hbegin hframe => ?_, exec_cancel_of_not_opened⟩
  · rw [exec_cancel_of_busy hb, cancellable_eq_true_iff.mpr hop, Bool.or_true]
  · have hcancel : s.curOp.cancellable = false :=
      Bool.eq_false_iff.mpr fun h => (cancellable_eq_true_iff.mp h).elim hbegin hframe
    rw [exec_cancel_of_busy hb, hcancel, Bool.or_false]

/-- Settles O32: the first check of FRAME raises the error. -/
theorem frameDimensionMismatch : Obligations.FrameDimensionMismatch := by
  unfold Obligations.FrameDimensionMismatch
  intro s hready hne
  refine ⟨_, exec_of_ready (op := .frame) rfl hready, ?_⟩
  rw [complete_of_frame rfl, runFrame_of_mismatch (s := issue .frame s) hne]
  exact (inError_errorEntry _ _).of_issue

/-- Settles O40: the first check of SAMPLE and of INDEX raises the error. -/
theorem unitCommandsRefuseLargeFrames : Obligations.UnitCommandsRefuseLargeFrames := by
  unfold Obligations.UnitCommandsRefuseLargeFrames
  intro s hready hlarge
  refine ⟨⟨_, exec_of_ready (op := .sample) rfl hready, ?_⟩, ⟨_, exec_of_ready (op := .index) rfl hready, ?_⟩⟩
  · rw [complete_of_sample rfl, runSample_of_large (s := issue .sample s) hlarge]
    exact (inError_errorEntry _ _).of_issue
  · rw [complete_of_index rfl, runIndex_of_large (s := issue .index s) hlarge]
    exact (inError_errorEntry _ _).of_issue

end Sys2Proof.Machine
end

section
/-! The obligations on one step of the core: decoded commands, completion, waiting, issue and reset. -/

namespace Sys2Proof.Machine

theorem decode_of_decodeTableWord {nbits w : Nat} {i : Instr} (h : decodeTableWord nbits w = some i) :
    decode (BitVec.ofNat 32 (w % 2 ^ nbits)) = .ok i := by
  rw [decodeTableWord] at h
  split at h
  · next j hj => rw [hj, Option.some.inj h]
  · cases h

/-- The write that `withFetchWord` puts in front reaches the core next, busy or not. -/
theorem withFetchWord_arrives (s : State) (nbits w : Nat) :
    Arrives (commandWrite (BitVec.ofNat 32 (w % 2 ^ nbits))) s.queue (s.withFetchWord nbits w) :=
  ⟨true, rfl, fun _ => rfl⟩

/-- A decoded word that arrives at CMD is executed in that step. -/
theorem step_of_commandWrite {w : Word} {i : Instr} {rest : List HostEvent} {s : State}
    (h : Arrives (commandWrite w) rest s) (hdec : decode w = .ok i) : step s = exec i { s with queue := rest } := by
  rw [step_of_arrives h, perform_commandWrite, writeCommand_of_decode hdec]

/-- Settles O4: the access that arrives is the write to CMD, and the decoder reads the command. -/
theorem stepRunsDecodedCommand : Obligations.StepRunsDecodedCommand := by
  unfold Obligations.StepRunsDecodedCommand
  exact ⟨fun w i s rest harrives hdec => step_of_commandWrite harrives hdec,
    fun s nbits w i hdec => step_of_commandWrite (withFetchWord_arrives s nbits w) (decode_of_decodeTableWord hdec)⟩

/-- Settles O5: nothing is taken off the queue, so the step is the completion. -/
theorem stepCompletesRunningCommand : Obligations.StepCompletesRunningCommand := by
  unfold Obligations.StepCompletesRunningCommand
  exact fun s hb halone => ⟨step_of_completing hb halone, complete_busy s⟩

/-- Settles O6: with an empty queue the step of an idle core is the wait. -/
theorem idleCoreWaits : Obligations.IdleCoreWaits := by
  unfold Obligations.IdleCoreWaits
  exact fun s => step_of_waiting

/-- Settles O7: a legal command that is overtaken is issued and no more. -/
theorem overtakenCommandIsIssued : Obligations.OvertakenCommandIsIssued := by
  unfold Obligations.OvertakenCommandIsIssued
  intro s hb hovertaken
  have hissue : ∀ op : IssuedOp, op.instr.wf = true → s.phase = op.legalPhase →
      exec op.instr s = .next { s with busy := true, curOp := op } := fun op hwf hphase =>
    (exec_instr op hwf s).trans (launchIn_of_overtaken hb hphase hovertaken op)
  exact ⟨hissue .begin rfl, hissue .frame rfl, hissue .sample rfl, hissue .mcut rfl, hissue .index rfl,
    fun d hlow hhigh => hissue (.lzw d) (by simp [IssuedOp.instr, Instr.wf, hlow, hhigh])⟩

/-- Settles O12: the registers are evaluated, an unwritten memory lists no byte, and an idle core waits. -/
theorem resetValues : Obligations.ResetValues := by
  unfold Obligations.ResetValues
  refine ⟨fun c => ?_, rfl, rfl, rfl, rfl, rfl, fun sp a => ?_, step_of_waiting rfl rfl⟩
  · cases c <;> decide
  · cases sp <;> rfl

/-- Settles O13: reset gives every register its value at reset and forgets every memory, whatever the state. -/
theorem hardwareResetFromAnyState : Obligations.HardwareResetFromAnyState := by
  unfold Obligations.HardwareResetFromAnyState
  intro s rest harrives
  refine ⟨_, step_of_arrives harrives, fun c => ?_, rfl, rfl, fun sp a => ?_⟩
  · exact (show (hardwareReset _).csrValue c = State.reset.csrValue c by cases c <;> rfl).trans (resetValues.1 c)
  · cases sp <;> rfl

/-- Settles O14: every clause is evaluated on the one state after reset. -/
theorem resetMeetsInvariants : Obligations.ResetMeetsInvariants := by
  unfold Obligations.ResetMeetsInvariants
  refine ⟨?_, ?_, ⟨nofun, nofun⟩⟩
  · constructor <;> decide
  · constructor <;> rfl

end Sys2Proof.Machine
end

section
/-! The obligations on register reads, on STATUS, on memory reads and on accesses the spec does not define. -/

namespace Sys2Proof.Machine

/-- A 32-bit aligned register read that reaches the core is served by `readCsr` (rule R62). -/
theorem step_of_csrRead {offset : Nat} {rest : List HostEvent} {s : State}
    (h : Arrives (.readCsr offset 4) rest s) (haligned : offset % 4 = 0) :
    step s = .next (readCsr offset { s with queue := rest }) := by
  rw [step_of_arrives h, perform, if_pos (csrAccessDefined_iff.mpr ⟨rfl, haligned⟩)]

/-- A register read on an idle core returns the register. -/
theorem readCsr_of_idle {s : State} (hb : s.busy = false) (c : Csr) :
    readCsr c.offset s = { s with rdata := .word (s.csrValue c) } := by
  rw [readCsr, csrAt_offset]
  cases c <;> simp [hb, State.csrValue]

theorem readCsr_of_reserved {offset : Nat} (h : csrAt offset = none) (s : State) :
    readCsr offset s = { s with rdata := .word 0 } := by
  rw [readCsr, h]

theorem csrAt_of_le {offset : Nat} (h : 0x40 ≤ offset) : csrAt offset = none := by
  refine Option.eq_none_iff_forall_ne_some.mpr fun c hc => ?_
  have hsmall : c.offset < 0x40 := by cases c <;> decide
  rw [csrAt_eq_some_iff.mp hc] at h
  omega

/-- Settles O20: each offset of the table is that of a register, and those from 0x40 on are reserved. -/
theorem csrReadReturnsRegister : Obligations.CsrReadReturnsRegister := by
  unfold Obligations.CsrReadReturnsRegister
  rintro s rest offset value harrives hb (hmem | ⟨hle, haligned, rfl⟩)
  · have hregister : ∃ c : Csr, offset = c.offset ∧ BitVec.ofNat 32 value = s.csrValue c := by
      simp only [List.mem_cons, List.not_mem_nil, or_false, Prod.mk.injEq] at hmem
      rcases hmem with ⟨rfl, rfl⟩ | ⟨rfl, rfl⟩ | ⟨rfl, rfl⟩ | ⟨rfl, rfl⟩ | ⟨rfl, rfl⟩ | ⟨rfl, rfl⟩ | ⟨rfl, rfl⟩ |
        ⟨rfl, rfl⟩ | ⟨rfl, rfl⟩ | ⟨rfl, rfl⟩ | ⟨rfl, rfl⟩ | ⟨rfl, rfl⟩ | ⟨rfl, rfl⟩ | ⟨rfl, rfl⟩ | ⟨rfl, rfl⟩ |
        ⟨rfl, rfl⟩
      · exact ⟨.cmd, rfl, rfl⟩
      all_goals exact ⟨_, csrAt_eq_some_iff.mp rfl, BitVec.ofNat_toNat 32 _⟩
    obtain ⟨c, rfl, hvalue⟩ := hregister
    have haligned : c.offset % 4 = 0 := by cases c <;> rfl
    rw [step_of_csrRead harrives haligned, readCsr_of_idle (s := { s with queue := rest }) hb, hvalue]
    cases c <;> rfl
  · rw [step_of_csrRead harrives haligned, readCsr_of_reserved (csrAt_of_le hle)]
    rfl

/-- Settles O21: STATUS is a function of the phase and three bits, evaluated on all their values. -/
theorem statusWordFields : Obligations.StatusWordFields := by
  unfold Obligations.StatusWordFields
  intro s
  rw [State.statusWord, State.doneFlag, State.errFlag]
  generalize s.phase = phase, s.busy = busy, s.cancelReq = cancelReq, s.cmdRej = cmdRej
  cases phase <;> revert busy cancelReq cmdRej <;> decide

/-- Settles O24: an access of another width or alignment is refused before any register is looked up. -/
theorem undefinedCsrAccessRefused : Obligations.UndefinedCsrAccessRefused := by
  unfold Obligations.UndefinedCsrAccessRefused
  intro s rest offset size v hbad
  have hundefined : ¬ csrAccessDefined offset size = true := by
    rw [csrAccessDefined_iff]
    omega
  refine ⟨fun harrives => ?_, fun harrives => ?_⟩
  · rw [step_of_arrives harrives, perform, if_neg hundefined]
  · rw [step_of_arrives harrives, perform, if_neg hundefined]

/-- Byte `k` of a read that starts at offset `a` is that of the space where the read is defined (rule R61). -/
theorem loadByte_of_defined {s : State} {sp : Space} {a k : Nat} (hb : s.busy = false)
    (hsize : a + k < spaceSize s.params sp) (hout : sp = .out → a + k < s.outLen.toNat) :
    loadByte s sp a k = s.byte sp (a + k) := by
  refine if_pos ?_
  by_cases h : sp = .out
  · simp [readDefined, hb, hsize, hout h]
  · simp [readDefined, hb, hsize, h]

/-- Settles O23: a register read is `readCsr`, a memory read lists `loadByte` of each offset. -/
theorem hostReadReturnsBytes : Obligations.HostReadReturnsBytes := by
  unfold Obligations.HostReadReturnsBytes
  refine ⟨fun s rest offset haligned harrives => ⟨_, step_of_csrRead harrives haligned, readCsr_frame offset _⟩,
    fun s rest sp a n harrives => ⟨_, _, step_of_arrives harrives, rfl, rfl, by simp, ?_⟩⟩
  intro hb k hk hsize hout
  rw [List.getElem?_map, List.getElem?_range hk, Option.map_some,
    loadByte_of_defined (s := { s with queue := rest }) hb hsize hout]
  cases sp <;> rfl

end Sys2Proof.Machine
end

section
/-! SUPPORT. What a host write to a memory stores (rules R60, R61, R67). -/

namespace Sys2Proof.Machine

/-- The two states differ at most in the memories a host can write. -/
def SameButStores (s t : State) : Prop := t = { s with fb := t.fb, smp := t.smp, pal := t.pal, idx := t.idx }

theorem SameButStores.trans {s t u : State} (h1 : SameButStores s t) (h2 : SameButStores t u) : SameButStores s u := by
  refine Eq.trans h2 ?_
  rw [h1]

theorem sameButStores_storeByte (sp : Space) (a : Nat) (b : Byte) (s : State) :
    SameButStores s (storeByte sp a b s) := by
  rw [storeByte]
  split
  · next h =>
    cases sp with
    | out => exact absurd rfl h.1
    | _ => rfl
  · rfl

/-- A host write changes FB, SMP, PAL and IDX at most. -/
theorem sameButStores_storeBytes (sp : Space) (bs : List Byte) (a : Nat) (s : State) :
    SameButStores s (storeBytes sp a bs s) := by
  induction bs generalizing a s with
  | nil => rfl
  | cons b bs ih => exact (sameButStores_storeByte sp a b s).trans (ih (a + 1) _)

@[simp] theorem storeByte_params (sp : Space) (a : Nat) (b : Byte) (s : State) :
    (storeByte sp a b s).params = s.params := by
  rw [sameButStores_storeByte sp a b s]

theorem byte_storeByte (sp sp' : Space) (a x : Nat) (b : Byte) (s : State) :
    (storeByte sp a b s).byte sp' x =
      if sp' = sp ∧ sp ≠ .out ∧ x = a ∧ x < spaceSize s.params sp then b else s.byte sp' x := by
  by_cases hstored : sp ≠ .out ∧ a < spaceSize s.params sp
  · rw [storeByte, if_pos hstored]
    by_cases hsp : sp' = sp
    · subst sp'
      by_cases hx : a = x
      · subst x
        rw [byte_setByte, if_pos rfl, if_pos ⟨rfl, hstored.1, rfl, hstored.2⟩]
      · rw [byte_setByte, if_neg hx, if_neg fun h => hx h.2.2.1.symm]
    · rw [byte_setByte_of_ne _ _ _ _ _ _ hsp, if_neg fun h => hsp h.1]
  · rw [storeByte, if_neg hstored, if_neg]
    rintro ⟨-, hout, rfl, hsize⟩
    exact hstored ⟨hout, hsize⟩

/-- Every byte of every space after a host write (rules R61, R67). -/
theorem byte_storeBytes (sp sp' : Space) (bs : List Byte) (a x : Nat) (s : State) :
    (storeBytes sp a bs s).byte sp' x =
      if sp' = sp ∧ sp ≠ .out ∧ a ≤ x ∧ x < a + bs.length ∧ x < spaceSize s.params sp then bs[x - a]?.getD 0
      else s.byte sp' x := by
  induction bs generalizing a s with
  | nil =>
    rw [if_neg (by simp only [List.length_nil]; omega)]
    rfl
  | cons b bs ih =>
    rw [storeBytes, ih, byte_storeByte, storeByte_params, List.length_cons]
    by_cases hx : x = a
    · subst x
      rw [if_neg (by omega)]
      simp
    · have hlater : a + 1 ≤ x ∧ x < a + 1 + bs.length ↔ a ≤ x ∧ x < a + (bs.length + 1) := by omega
      have hbyte : a ≤ x → (b :: bs)[x - a]? = bs[x - (a + 1)]? := fun h => by
        rw [show x - a = x - (a + 1) + 1 by omega, List.getElem?_cons_succ]
      by_cases hin : a + 1 ≤ x ∧ x < a + 1 + bs.length
      · simp [hin, hlater.mp hin, hbyte (hlater.mp hin).1, hx]
      · rw [if_neg (by omega), if_neg (by omega), if_neg (by omega)]

end Sys2Proof.Machine
end

section
/-! The obligation on host writes to a memory. -/

namespace Sys2Proof.Machine

/-- Settles O22: the step is the store of every byte of the access in turn. -/
theorem hostWriteStoresItsBytes : Obligations.HostWriteStoresItsBytes := by
  unfold Obligations.HostWriteStoresItsBytes
  intro s rest sp a bs harrives hb
  have hstep : step s = .next (storeBytes sp a bs { s with queue := rest }) := by
    rw [step_of_arrives harrives, perform, storeMem, if_neg (by simp [hb])]
  refine ⟨⟨rfl, rfl, rfl, rfl⟩, _, hstep, sameButStores_storeBytes sp bs a _, fun sp' x => ?_⟩
  rw [byte_storeBytes]
  cases sp' <;> rfl

end Sys2Proof.Machine
end

section
/-! SUPPORT. What a step can do, said once: every invariant of a step is a case analysis over `Change`. -/

namespace Sys2Proof.Machine

/-- What a step from `s` can make of `u`, the state `s` without the access that the step takes off the queue. -/
inductive Change (s u : State) : State → Prop
  /-- waiting, NOP, a CANCEL without effect, a write that is dropped -/
  | same : Change s u u
  | rejected : Change s u (reject u)
  | read (data : ReadData) (draws : Nat) : Change s u { u with rdata := data, draws := draws }
  | field (c : Csr) (v : Word) : s.busy = false → Change s u (writeField c v u)
  | stored (sp : Space) (a : Nat) (bs : List Byte) : s.busy = false → Change s u (storeBytes sp a bs u)
  | recorded : s.busy = true → s.curOp.cancellable = true → Change s u { u with cancelReq := true }
  | cancelled : WrittenIdle .cancel s → s.phase = .opened → Change s u (errorEntry .cancelled u)
  | cleared : WrittenIdle .clear s → Change s u (backToIdle u)
  | reset (rest : List HostEvent) : Arrives .reset rest s → Change s u (hardwareReset u)
  | issued (op : IssuedOp) : op.instr.wf = true → s.busy = false → s.phase = op.legalPhase → Change s u (issue op u)
  /-- a command completes that runs already, or that is legal and is written now -/
  | completed (op : IssuedOp) : Runs op s → (s.busy = false → op.instr.wf = true ∧ s.phase = op.legalPhase) →
      Change s u (complete (issue op u))

theorem issue_of_running {s : State} (hb : s.busy = true) : issue s.curOp s = s := by
  rw [issue, ← hb]

/-- A command that an idle core executes. -/
theorem change_of_exec {w : Word} {i : Instr} {rest : List HostEvent} {s t : State} (hb : s.busy = false)
    (harrives : Arrives (commandWrite w) rest s) (hdec : decode w = .ok i)
    (h : exec i { s with queue := rest } = .next t) : Change s { s with queue := rest } t := by
  have hwritten : WrittenIdle i s := ⟨hb, w, rest, harrives, hdec⟩
  rcases instr_cases i with rfl | rfl | rfl | ⟨op, rfl⟩
  · rw [exec_nop_of_idle (s := { s with queue := rest }) hb] at h
    cases h
    exact .same
  · by_cases hp : s.phase = .opened
    · rw [exec_cancel_of_opened (s := { s with queue := rest }) hb hp] at h
      cases h
      exact .cancelled hwritten hp
    · rw [exec_cancel_of_not_opened (s := { s with queue := rest }) hb hp] at h
      cases h
      exact .same
  · rw [exec_clear_of_idle (s := { s with queue := rest }) hb] at h
    cases h
    exact .cleared hwritten
  · have hwf := (fields_of_decode hdec).1
    rw [exec_instr op hwf] at h
    rcases launchIn_cases op.legalPhase op { s with queue := rest } with ⟨hready, hl⟩ | ⟨-, hp, -, hl⟩ | ⟨-, hl⟩ <;>
      rw [hl] at h <;> cases h
    · exact .completed op (.inr ⟨hb, w, rest, harrives, hdec⟩) fun _ => ⟨hwf, hready.inPhase⟩
    · exact .issued op hwf hb hp
    · exact .rejected

/-- A register write that reaches an idle core. -/
theorem change_of_writeCsr {offset : Nat} {v : Word} {rest : List HostEvent} {s t : State} (hb : s.busy = false)
    (harrives : Arrives (.writeCsr offset 4 v) rest s) (h : writeCsr offset v { s with queue := rest } = .next t) :
    Change s { s with queue := rest } t := by
  cases hc : csrAt offset with
  | none =>
    rw [writeCsr_of_reserved hc] at h
    cases h
    exact .same
  | some c =>
    obtain rfl := csrAt_eq_some_iff.mp hc
    by_cases hcmd : c = .cmd
    · subst c
      rw [show writeCsr Csr.cmd.offset v { s with queue := rest } = writeCommand v { s with queue := rest } from rfl] at h
      cases hdec : decode v with
      | ok i =>
        rw [writeCommand_of_decode hdec] at h
        exact change_of_exec hb harrives hdec h
      | error e =>
        rw [writeCommand, hdec] at h
        cases h
        exact .rejected
    · rw [writeCsr_of_register hcmd, if_neg (by simp [hb])] at h
      cases h
      exact .field c v hb

/-- An access that reaches an idle core. -/
theorem change_of_perform {access : HostAccess} {rest : List HostEvent} {s t : State} (hb : s.busy = false)
    (harrives : Arrives access rest s) (h : perform access { s with queue := rest } = .next t) :
    Change s { s with queue := rest } t := by
  cases access with
  | writeCsr offset size v =>
    rw [perform] at h
    split at h
    · next hdefined =>
      obtain ⟨rfl, -⟩ := csrAccessDefined_iff.mp hdefined
      exact change_of_writeCsr hb harrives h
    · cases h
  | readCsr offset size =>
    rw [perform] at h
    split at h
    · cases h
      rw [readCsr_frame]
      exact .read _ _
    · cases h
  | store space a bs =>
    rw [perform, storeMem, if_neg (by simp [hb])] at h
    cases h
    exact .stored space a bs hb
  | load space a count =>
    cases h
    exact .read _ _
  | reset =>
    cases h
    exact .reset rest harrives

/-- An access that reaches a busy core. -/
theorem change_of_perform_busy {access : HostAccess} {rest : List HostEvent} {s t : State} (hb : s.busy = true)
    (harrives : Arrives access rest s) (h : perform access { s with queue := rest } = .next t) :
    Change s { s with queue := rest } t := by
  by_cases hreset : access = .reset
  · subst access
    cases h
    exact .reset rest harrives
  · rcases perform_cases_of_busy (s := { s with queue := rest }) hb hreset h with
      ⟨w, -, -, rfl⟩ | ⟨w, -, -, rfl⟩ | ⟨-, ht⟩
    · cases hc : s.curOp.cancellable with
      | true =>
        rw [Bool.or_true]
        exact .recorded hb hc
      | false =>
        rw [Bool.or_false]
        exact .same
    · exact .rejected
    · rw [ht]
      exact .read _ _

/-- Everything a step can do. -/
theorem change_of_step {s t : State} (h : step s = .next t) : ∃ queue, Change s { s with queue := queue } t := by
  rcases step_cases s with ⟨access, rest, harrives, hstep⟩ | ⟨hb, halone, hstep⟩ | ⟨-, -, hstep⟩ <;> rw [hstep] at h
  · by_cases hb : s.busy = true
    · exact ⟨rest, change_of_perform_busy hb harrives h⟩
    · exact ⟨rest, change_of_perform (Bool.eq_false_of_not_eq_true hb) harrives h⟩
  · cases h
    refine ⟨s.queue, ?_⟩
    have hcompleted : Change s s (complete (issue s.curOp s)) :=
      .completed s.curOp (.inl ⟨hb, halone, rfl⟩) fun hidle => absurd hidle (by simp [hb])
    rwa [issue_of_running hb] at hcompleted
  · cases h
    exact ⟨s.queue, .same⟩

/-! ### The parts of a change -/

/-- A register write changes the frame's dimensions, or in phase IDLE the configuration or a count within its bound, or
nothing (rule R31). -/
theorem writeField_cases (c : Csr) (v : Word) (s : State) :
    (∃ w h, writeField c v s = { s with frameW := w, frameH := h }) ∨
      (s.phase = .idle ∧ ∃ w h d n, writeField c v s = { s with width := w, height := h, delay := d, frameCount := n }) ∨
      (s.phase = .idle ∧ ∃ n : Word, n.toNat ≤ s.params.sampleBudget ∧ writeField c v s = { s with smpCount := n }) ∨
      (s.phase = .idle ∧ ∃ n : Word, n.toNat ≤ s.params.maxPixels ∧ writeField c v s = { s with idxLen := n }) := by
  have hsame : writeField c v s = s → ∃ w h, writeField c v s = { s with frameW := w, frameH := h } :=
    fun h => ⟨s.frameW, s.frameH, h⟩
  by_cases hp : s.phase = .idle
  · have hidle : ∀ t, writeInIdle s t = t := writeInIdle_of_idle hp
    cases c with
    | width => exact .inr (.inl ⟨hp, v.setWidth 16, s.height, s.delay, s.frameCount, hidle _⟩)
    | height => exact .inr (.inl ⟨hp, s.width, v.setWidth 16, s.delay, s.frameCount, hidle _⟩)
    | delay => exact .inr (.inl ⟨hp, s.width, s.height, v.setWidth 16, s.frameCount, hidle _⟩)
    | frameCount => exact .inr (.inl ⟨hp, s.width, s.height, s.delay, v.setWidth 16, hidle _⟩)
    | frameW => exact .inl ⟨v.setWidth 16, s.frameH, rfl⟩
    | frameH => exact .inl ⟨s.frameW, v.setWidth 16, rfl⟩
    | smpCount =>
      by_cases hv : v.toNat ≤ s.params.sampleBudget
      · exact .inr (.inr (.inl ⟨hp, v, hv, (hidle _).trans (if_pos hv)⟩))
      · exact .inl (hsame ((hidle _).trans (if_neg hv)))
    | idxLen =>
      by_cases hv : v.toNat ≤ s.params.maxPixels
      · exact .inr (.inr (.inr ⟨hp, v, hv, (hidle _).trans (if_pos hv)⟩))
      · exact .inl (hsame ((hidle _).trans (if_neg hv)))
    | _ => exact .inl (hsame rfl)
  · have hkept : ∀ t, writeInIdle s t = s := writeInIdle_of_not_idle hp
    cases c with
    | frameW => exact .inl ⟨v.setWidth 16, s.frameH, rfl⟩
    | frameH => exact .inl ⟨s.frameW, v.setWidth 16, rfl⟩
    | width | height | delay | frameCount | smpCount | idxLen => exact .inl (hsame (hkept _))
    | _ => exact .inl (hsame rfl)

/-- A register write leaves everything as it is but the configuration and two counts. -/
theorem writeField_frame (c : Csr) (v : Word) (s : State) :
    writeField c v s =
      { s with
        width := (writeField c v s).width, height := (writeField c v s).height, delay := (writeField c v s).delay
        frameCount := (writeField c v s).frameCount, frameW := (writeField c v s).frameW
        frameH := (writeField c v s).frameH, smpCount := (writeField c v s).smpCount
        idxLen := (writeField c v s).idxLen } := by
  rcases writeField_cases c v s with ⟨w, h, e⟩ | ⟨-, w, h, d, n, e⟩ | ⟨-, n, -, e⟩ | ⟨-, n, -, e⟩ <;> rw [e]

theorem SameButResults.params {s t : State} (h : SameButResults s t) : t.params = s.params := by
  rw [h]

/-- The parameters are not touched by a completion (rule R20). -/
theorem complete_params (s : State) : (complete s).params = s.params := by
  rcases complete_cases s with ⟨t, ht, h⟩ | ⟨k, -, h⟩
  · rw [h]
    exact (onlyResults_bodyOf s t ht).params
  · rw [h, errorEntry_params, (sameButResults_bodyOf s).params]

end Sys2Proof.Machine
end

section
/-! The obligations on the parameters and on CMD_REJ. -/

namespace Sys2Proof.Machine

/-- Settles O18: no change of the state writes the parameters. -/
theorem stepKeepsParameters : Obligations.StepKeepsParameters := by
  unfold Obligations.StepKeepsParameters
  intro s t hstep
  obtain ⟨queue, hchange⟩ := change_of_step hstep
  cases hchange with
  | field c v => rw [writeField_frame]
  | stored sp a bs => rw [sameButStores_storeBytes sp bs a]
  | completed op => exact complete_params _
  | _ => rfl

/-- Settles O11: of all changes only the return to IDLE and reset write a 0 to CMD_REJ. -/
theorem rejectionIsSticky : Obligations.RejectionIsSticky := by
  unfold Obligations.RejectionIsSticky
  intro s t hrej hstep
  obtain ⟨queue, hchange⟩ := change_of_step hstep
  cases hchange with
  | rejected => exact .inl rfl
  | field c v => exact .inl (by rw [writeField_frame]; exact hrej)
  | stored sp a bs => exact .inl (by rw [sameButStores_storeBytes sp bs a]; exact hrej)
  | cleared hclear => exact .inr (.inl hclear)
  | reset rest harrives => exact .inr (.inr ⟨rest, harrives⟩)
  | completed op => exact .inl ((complete_cmdRej _).trans hrej)
  | _ => exact .inl hrej

end Sys2Proof.Machine
end

section
/-! SUPPORT. The procedures of the core respect every relation of states that agree but in what the host does meanwhile
(the queue, CMD_REJ, the read port) and in the count of free values: they read none of these. The relation is a
parameter: one choice gives what a completion depends on, another the canonical form of the memories. -/

namespace Sys2Proof.Machine

/-- A relation of states that agree in all that a procedure reads, and that every write of a procedure keeps. -/
structure HostBlind (R : State → State → Prop) : Prop where
  agree : ∀ {s s'}, R s s' → ∃ queue rej data draws,
    s' = { s with queue := queue, cmdRej := rej, rdata := data, draws := draws }
  store : ∀ {s s'} sp a bs, R s s' → R (s.setBytes sp a bs) (s'.setBytes sp a bs)
  drop : ∀ {s s'}, R s s' → R (dropOutput s) (dropOutput s')
  results : ∀ {s s'} phase done len smp bktc idxl stride lzw pack bkt, R s s' →
    R { s with phase := phase, framesDone := done, outLen := len, smpCount := smp, bktCount := bktc, idxLen := idxl
               stride := stride, lzw := lzw, pack := pack, bkt := bkt }
      { s' with phase := phase, framesDone := done, outLen := len, smpCount := smp, bktCount := bktc, idxLen := idxl
                stride := stride, lzw := lzw, pack := pack, bkt := bkt }

/-- Two runs end in the same error, or in related states. -/
def Matches (R : State → State → Prop) : Except ErrCode State → Except ErrCode State → Prop
  | .ok t, .ok t' => R t t'
  | .error e, .error e' => e = e'
  | _, _ => False

variable {R : State → State → Prop}

theorem Matches.andThen {r r' : Except ErrCode State} {f f' : State → Except ErrCode State} (h : Matches R r r')
    (hf : ∀ t t', R t t' → Matches R (f t) (f' t')) : Matches R (andThen r f) (andThen r' f') := by
  cases r <;> cases r'
  · exact h
  · exact h.elim
  · exact h.elim
  · exact hf _ _ h

theorem Matches.ite {p p' : Prop} [Decidable p] [Decidable p'] {r q r' q' : Except ErrCode State} (hp : p ↔ p')
    (hr : Matches R r r') (hq : Matches R q q') : Matches R (if p then r else q) (if p' then r' else q') := by
  by_cases h : p
  · rwa [if_pos h, if_pos (hp.mp h)]
  · rwa [if_neg h, if_neg (mt hp.mpr h)]

theorem Matches.error (e : ErrCode) : Matches R (.error e) (.error e) := rfl

section Procedures

variable (hR : HostBlind R)
include hR

/-! ### Units U4 and U3 -/

theorem HostBlind.regs {s s' : State} (h : R s s') (l : LzwRegs) (p : PackRegs) :
    R { s with lzw := l, pack := p } { s' with lzw := l, pack := p } := by
  obtain ⟨queue, rej, data, draws, rfl⟩ := hR.agree h
  exact hR.results s.phase s.framesDone s.outLen s.smpCount s.bktCount s.idxLen s.stride l p s.bkt h

theorem matches_outBytes (bs : List Byte) {s s' : State} (h : R s s') : Matches R (outBytes bs s) (outBytes bs s') := by
  obtain ⟨queue, rej, data, draws, rfl⟩ := hR.agree h
  exact .ite Iff.rfl (hR.results s.phase s.framesDone _ s.smpCount s.bktCount s.idxLen s.stride s.lzw s.pack s.bkt
    (hR.store .out s.outLen.toNat bs h)) (.error _)

theorem matches_outByte (b : Byte) {s s' : State} (h : R s s') : Matches R (outByte b s) (outByte b s') := by
  obtain ⟨queue, rej, data, draws, rfl⟩ := hR.agree h
  exact .ite Iff.rfl (.error _) (hR.results s.phase s.framesDone _ s.smpCount s.bktCount s.idxLen s.stride s.lzw s.pack
    s.bkt (hR.store .out s.outLen.toNat [b] h))

theorem matches_outBlk {s s' : State} (h : R s s') : Matches R (outBlk s) (outBlk s') := by
  obtain ⟨queue, rej, data, draws, rfl⟩ := hR.agree h
  refine .andThen (matches_outBytes hR _ h) fun t t' ht => ?_
  obtain ⟨queue, rej, data, draws, rfl⟩ := hR.agree ht
  exact hR.regs ht t.lzw _

theorem matches_putBlkByte (b : Byte) {s s' : State} (h : R s s') :
    Matches R (putBlkByte b s) (putBlkByte b s') := by
  obtain ⟨queue, rej, data, draws, rfl⟩ := hR.agree h
  have hpushed := hR.regs h s.lzw { s.pack with blk := s.pack.blk ++ [b] }
  exact .ite Iff.rfl (matches_outBlk hR hpushed) hpushed

theorem matches_drainBytes (passes : Nat) {s s' : State} (h : R s s') :
    Matches R (drainBytes passes s) (drainBytes passes s') := by
  induction passes generalizing s s' with
  | zero => exact h
  | succ passes ih =>
    obtain ⟨queue, rej, data, draws, rfl⟩ := hR.agree h
    refine .ite Iff.rfl (.andThen (matches_putBlkByte hR _ h) fun t t' ht => ?_) h
    obtain ⟨queue, rej, data, draws, rfl⟩ := hR.agree ht
    exact ih (hR.regs ht t.lzw { t.pack with acc := t.pack.acc / 256, nb := t.pack.nb - 8 })

theorem matches_putCode (c w : Nat) {s s' : State} (h : R s s') : Matches R (putCode c w s) (putCode c w s') := by
  obtain ⟨queue, rej, data, draws, rfl⟩ := hR.agree h
  exact matches_drainBytes hR _ (hR.regs h s.lzw
    { s.pack with acc := s.pack.acc + c * 2 ^ s.pack.nb, nb := s.pack.nb + w })

theorem matches_flush {s s' : State} (h : R s s') : Matches R (flush s) (flush s') := by
  refine .andThen (.andThen ?_ fun t t' ht => ?_) fun t t' ht => matches_outByte hR 0 ht
  · obtain ⟨queue, rej, data, draws, rfl⟩ := hR.agree h
    refine .ite Iff.rfl (.andThen (matches_putBlkByte hR _ h) fun t t' ht => ?_) h
    obtain ⟨queue, rej, data, draws, rfl⟩ := hR.agree ht
    exact hR.regs ht t.lzw { t.pack with acc := 0, nb := 0 }
  · obtain ⟨queue, rej, data, draws, rfl⟩ := hR.agree ht
    exact .ite Iff.rfl (matches_outBlk hR ht) ht

theorem matches_growDict (sym : Byte) {s s' : State} (h : R s s') :
    Matches R (growDict sym s) (growDict sym s') := by
  obtain ⟨queue, rej, data, draws, rfl⟩ := hR.agree h
  refine .ite Iff.rfl (hR.regs h _ s.pack) (.andThen (matches_putCode hR _ _ h) fun t t' ht => ?_)
  obtain ⟨queue, rej, data, draws, rfl⟩ := hR.agree ht
  exact hR.regs ht _ t.pack

theorem matches_setPre (c : Nat) {s s' : State} (h : R s s') : R (s.setPre c) (s'.setPre c) := by
  obtain ⟨queue, rej, data, draws, rfl⟩ := hR.agree h
  exact hR.regs h { s.lzw with pre := c } s.pack

theorem matches_lzwPass (sym : Byte) {s s' : State} (h : R s s') :
    Matches R (lzwPass sym s) (lzwPass sym s') := by
  obtain ⟨queue, rej, data, draws, rfl⟩ := hR.agree h
  refine .ite Iff.rfl (.error _) ?_
  cases hfind : dictFind s.lzw.pre sym s.lzw.dict with
  | some code => exact matches_setPre hR code h
  | none =>
    exact .andThen (.andThen (matches_putCode hR _ _ h) fun t t' => matches_growDict hR sym) fun t t' ht =>
      matches_setPre hR _ ht

theorem matches_lzwLoop (syms : List Byte) {s s' : State} (h : R s s') :
    Matches R (lzwLoop syms s) (lzwLoop syms s') := by
  induction syms generalizing s s' with
  | nil => exact h
  | cons sym syms ih => exact .andThen (matches_lzwPass hR sym h) fun t t' => ih

theorem matches_endStream {s s' : State} (h : R s s') : Matches R (endStream s) (endStream s') := by
  obtain ⟨queue, rej, data, draws, rfl⟩ := hR.agree h
  exact .andThen (matches_putCode hR _ _ h) fun t t' => matches_flush hR

theorem matches_encodeSymbols (syms : List Byte) {s s' : State} (h : R s s') :
    Matches R (encodeSymbols syms s) (encodeSymbols syms s') := by
  cases syms with
  | nil => exact matches_endStream hR h
  | cons sym syms =>
    have hpre := matches_setPre hR sym.toNat h
    obtain ⟨queue, rej, data, draws, rfl⟩ := hR.agree h
    refine .ite Iff.rfl (.error _) (.andThen (matches_lzwLoop hR syms hpre) fun t t' ht => ?_)
    obtain ⟨queue, rej, data, draws, rfl⟩ := hR.agree ht
    exact .andThen (matches_putCode hR _ _ ht) fun u u' => matches_endStream hR

theorem matches_openStream (depth : Nat) {s s' : State} (h : R s s') :
    Matches R (openStream depth s) (openStream depth s') := by
  have hconst : R (setConstants depth s) (setConstants depth s') := by
    obtain ⟨queue, rej, data, draws, rfl⟩ := hR.agree h
    exact hR.regs h _ s.pack
  refine .andThen (matches_outByte hR _ hconst) fun t t' ht => ?_
  obtain ⟨queue, rej, data, draws, rfl⟩ := hR.agree ht
  exact matches_putCode hR _ _ (hR.regs ht (resetDict (packInit t)).lzw (packInit t).pack)

theorem matches_lzwStream (depth n : Nat) {s s' : State} (h : R s s') :
    Matches R (lzwStream depth n s) (lzwStream depth n s') := by
  have hsyms : s'.symbols n = s.symbols n := by
    obtain ⟨queue, rej, data, draws, rfl⟩ := hR.agree h
    rfl
  rw [lzwStream, lzwStream, hsyms]
  exact .andThen (matches_openStream hR depth h) fun t t' => matches_encodeSymbols hR _

/-! ### Units U5, U1 and U2 -/

theorem matches_writeHeader (w h : Half) {s s' : State} (hs : R s s') :
    Matches R (writeHeader w h s) (writeHeader w h s') :=
  .andThen (matches_outBytes hR _ hs) fun _ _ ht => .andThen (matches_outBytes hR _ ht) fun _ _ =>
    matches_outBytes hR _

theorem matches_writeFrame (w h d : Half) {s s' : State} (hs : R s s') :
    Matches R (writeFrame w h d s) (writeFrame w h d s') := by
  refine .andThen (matches_outBytes hR _ hs) fun t t' ht => .andThen (matches_outBytes hR _ ht) fun u u' hu => ?_
  have htable : localTable u' = localTable u := by
    obtain ⟨queue, rej, data, draws, rfl⟩ := hR.agree hu
    rfl
  rw [htable]
  exact .andThen (matches_outBytes hR _ hu) fun v v' => matches_lzwStream hR _ _

theorem related_sampleFrame (n : Nat) {s s' : State} (h : R s s') : R (sampleFrame n s) (sampleFrame n s') := by
  obtain ⟨queue, rej, data, draws, rfl⟩ := hR.agree h
  by_cases hn : n = 0
  · simp only [sampleFrame, if_pos hn]
    exact hR.results s.phase s.framesDone s.outLen 0 s.bktCount s.idxLen 1 s.lzw s.pack s.bkt h
  · simp only [sampleFrame, if_neg hn]
    exact hR.results s.phase s.framesDone s.outLen _ s.bktCount s.idxLen _ s.lzw s.pack s.bkt (hR.store .smp 0 _ h)

theorem related_medianCut {s s' : State} (h : R s s') : R (medianCut s) (medianCut s') := by
  obtain ⟨queue, rej, data, draws, rfl⟩ := hR.agree h
  exact hR.results s.phase s.framesDone s.outLen s.smpCount _ s.idxLen s.stride s.lzw s.pack _
    (hR.store .pal 0 _ (hR.store .smp 0 _ h))

theorem related_indexFrame (n : Nat) {s s' : State} (h : R s s') : R (indexFrame n s) (indexFrame n s') := by
  obtain ⟨queue, rej, data, draws, rfl⟩ := hR.agree h
  exact hR.results s.phase s.framesDone s.outLen s.smpCount s.bktCount _ s.stride s.lzw s.pack s.bkt
    (hR.store .idx 0 _ h)

/-! ### The bodies of the commands -/

theorem matches_testCancel {f : State → Except ErrCode State} (hf : ∀ {t t'}, R t t' → Matches R (f t) (f t'))
    {s s' : State} (h : R s s') : Matches R (testCancel f s) (testCancel f s') := by
  have hcancel : s'.cancelReq = s.cancelReq := by
    obtain ⟨queue, rej, data, draws, rfl⟩ := hR.agree h
    rfl
  exact .ite (by rw [hcancel]) (.error _) (hf h)

theorem matches_runBegin {s s' : State} (h : R s s') : Matches R (runBegin s) (runBegin s') := by
  have hopen : ∀ {t t'}, R t t' → Matches R (.ok { t with phase := .opened }) (.ok { t' with phase := .opened }) := by
    intro t t' ht
    obtain ⟨queue, rej, data, draws, rfl⟩ := hR.agree ht
    exact hR.results .opened t.framesDone t.outLen t.smpCount t.bktCount t.idxLen t.stride t.lzw t.pack t.bkt ht
  obtain ⟨queue, rej, data, draws, rfl⟩ := hR.agree h
  exact .ite Iff.rfl (.error _) (.ite Iff.rfl (.error _) (.andThen (matches_writeHeader hR _ _ h) fun t t' =>
    matches_testCancel hR hopen))

theorem matches_finishFrame {s s' : State} (h : R s s') : Matches R (finishFrame s) (finishFrame s') := by
  have hdone : ∀ (phase : Phase) {t t'}, R t t' →
      R { t with framesDone := t.framesDone + 1, phase := phase }
        { t' with framesDone := t'.framesDone + 1, phase := phase } := by
    intro phase t t' ht
    obtain ⟨queue, rej, data, draws, rfl⟩ := hR.agree ht
    exact hR.results phase (t.framesDone + 1) t.outLen t.smpCount t.bktCount t.idxLen t.stride t.lzw t.pack t.bkt ht
  obtain ⟨queue, rej, data, draws, rfl⟩ := hR.agree h
  exact .ite Iff.rfl (.andThen (matches_outByte hR _ h) fun t t' => hdone .done) (hdone s.phase h)

theorem matches_runFrame {s s' : State} (h : R s s') : Matches R (runFrame s) (runFrame s') := by
  obtain ⟨queue, rej, data, draws, rfl⟩ := hR.agree h
  exact .ite Iff.rfl (.error _) (.andThen
    (matches_writeFrame hR _ _ _ (related_indexFrame hR _ (related_medianCut hR (related_sampleFrame hR _ h))))
    fun t t' => matches_testCancel hR (matches_finishFrame hR))

theorem related_startConversion {s s' : State} (h : R s s') : R (startConversion s) (startConversion s') := by
  have hdrop := hR.drop h
  obtain ⟨queue, rej, data, draws, rfl⟩ := hR.agree h
  exact hR.results s.phase 0 0 s.smpCount s.bktCount s.idxLen s.stride s.lzw s.pack s.bkt hdrop

/-- Related states raise their errors in related states, and their bodies match. -/
theorem matches_bodyOf {s s' : State} (h : R s s') :
    R (bodyOf s).1 (bodyOf s').1 ∧ Matches R (bodyOf s).2 (bodyOf s').2 := by
  have hop : s'.curOp = s.curOp ∧ s'.params.maxPixels = s.params.maxPixels ∧ s'.framePixels = s.framePixels ∧
      s'.idxLen = s.idxLen := by
    obtain ⟨queue, rej, data, draws, rfl⟩ := hR.agree h
    exact ⟨rfl, rfl, rfl, rfl⟩
  obtain ⟨hop, hmax, hpixels, hlen⟩ := hop
  rw [bodyOf, bodyOf, hop]
  cases s.curOp with
  | begin => exact ⟨related_startConversion hR h, matches_runBegin hR (related_startConversion hR h)⟩
  | frame => exact ⟨h, matches_runFrame hR h⟩
  | sample =>
    refine ⟨h, .ite (by rw [hmax, hpixels]) (.error _) ?_⟩
    rw [hpixels]
    exact related_sampleFrame hR _ h
  | mcut => exact ⟨h, related_medianCut hR h⟩
  | index =>
    refine ⟨h, .ite (by rw [hmax, hpixels]) (.error _) ?_⟩
    rw [hpixels]
    exact related_indexFrame hR _ h
  | lzw depth =>
    refine ⟨h, ?_⟩
    simp only [runLzw, hlen]
    exact matches_lzwStream hR _ _ (hR.drop h)

/-- The completions of related states succeed both or fail both with the same error. -/
theorem complete_cases_of_related {s s' : State} (h : R s s') :
    (∃ t t', R t t' ∧ complete s = { forgetWorking t with busy := false } ∧
        complete s' = { forgetWorking t' with busy := false }) ∨
      (∃ k t t', R t t' ∧ complete s = errorEntry k t ∧ complete s' = errorEntry k t') := by
  obtain ⟨hstart, hbody⟩ := matches_bodyOf hR h
  rcases complete_cases s with ⟨t, ht, hc⟩ | ⟨k, hk, hc⟩ <;> rcases complete_cases s' with ⟨t', ht', hc'⟩ | ⟨k', hk', hc'⟩
  · rw [ht, ht'] at hbody
    exact .inl ⟨t, t', hbody, hc, hc'⟩
  · rw [ht, hk'] at hbody
    exact hbody.elim
  · rw [hk, ht'] at hbody
    exact hbody.elim
  · rw [hk, hk'] at hbody
    obtain rfl : k = k' := hbody
    exact .inr ⟨k, _, _, hstart, hc, hc'⟩

end Procedures

end Sys2Proof.Machine
end

section
/-! The obligation on late completion. -/

namespace Sys2Proof.Machine

/-- The two states differ by the given queue, CMD_REJ, last read and count of free values. -/
def Rehosted (queue : List HostEvent) (rej : Bool) (data : ReadData) (draws : Nat) (s s' : State) : Prop :=
  s' = { s with queue := queue, cmdRej := rej, rdata := data, draws := draws }

theorem hostBlind_rehosted (queue : List HostEvent) (rej : Bool) (data : ReadData) (draws : Nat) :
    HostBlind (Rehosted queue rej data draws) where
  agree h := ⟨queue, rej, data, draws, h⟩
  store sp a bs h := by
    rw [h]
    cases sp <;> rfl
  drop h := by
    rw [h]
    rfl
  results _ _ _ _ _ _ _ _ _ _ h := by
    rw [h]
    rfl

/-- Settles O8: a ready command completes as issued, and completions of states that differ in what the host does
meanwhile end in states that differ in the same way, up to the free values that are drawn. -/
theorem lateCompletionHasSameEffect : Obligations.LateCompletionHasSameEffect := by
  unfold Obligations.LateCompletionHasSameEffect
  refine ⟨fun op s hwf hready => exec_of_ready hwf hready, fun s queue rej data draws => ?_⟩
  have hrelated : Rehosted queue rej data draws s { s with queue := queue, cmdRej := rej, rdata := data, draws := draws } :=
    rfl
  rcases complete_cases_of_related (hostBlind_rehosted queue rej data draws) hrelated with
    ⟨t, _, rfl, ht, ht'⟩ | ⟨k, t, _, rfl, ht, ht'⟩ <;> rw [ht, ht']
  · exact ⟨fun _ => rfl, fun _ => rfl⟩
  · exact ⟨fun h => absurd rfl h, fun _ => rfl⟩

end Sys2Proof.Machine
end

section
/-! The obligation on the canonical form of the memories. -/

namespace Sys2Proof.Machine

/-- The state itself, with its memories in canonical form. -/
def SameCanonical (s s' : State) : Prop := s' = s ∧ MemInv s

theorem MemInv.mem {s : State} (h : MemInv s) (sp : Space) : (s.mem sp).wf = true := by
  cases sp with
  | fb => exact h.fb
  | smp => exact h.smp
  | pal => exact h.pal
  | idx => exact h.idx
  | out => exact h.out

theorem MemInv.setMem {s : State} (h : MemInv s) (sp : Space) {m : Memory} (hm : m.wf = true) :
    MemInv (s.setMem sp m) := by
  cases sp with
  | fb => exact ⟨hm, h.smp, h.pal, h.idx, h.out⟩
  | smp => exact ⟨h.fb, hm, h.pal, h.idx, h.out⟩
  | pal => exact ⟨h.fb, h.smp, hm, h.idx, h.out⟩
  | idx => exact ⟨h.fb, h.smp, h.pal, hm, h.out⟩
  | out => exact ⟨h.fb, h.smp, h.pal, h.idx, hm⟩

theorem MemInv.setBytes {s : State} (h : MemInv s) (sp : Space) (a : Nat) (bs : List Byte) :
    MemInv (s.setBytes sp a bs) :=
  h.setMem sp (Memory.wf_writeBytes _ _ _ (h.mem sp))

theorem MemInv.setByte {s : State} (h : MemInv s) (sp : Space) (a : Nat) (b : Byte) : MemInv (s.setByte sp a b) :=
  h.setMem sp (Memory.wf_write _ _ _ (h.mem sp))

theorem MemInv.errorEntry {s : State} (h : MemInv s) (k : ErrCode) : MemInv (errorEntry k s) :=
  ⟨h.fb, Memory.wf_forget _, Memory.wf_forget _, Memory.wf_forget _, Memory.wf_forget _⟩

/-- A change of the registers alone keeps the canonical form. -/
theorem MemInv.of_mem_eq {s t : State} (h : MemInv s) (hmem : ∀ sp, t.mem sp = s.mem sp) : MemInv t where
  fb := (congrArg Memory.wf (hmem .fb)).trans h.fb
  smp := (congrArg Memory.wf (hmem .smp)).trans h.smp
  pal := (congrArg Memory.wf (hmem .pal)).trans h.pal
  idx := (congrArg Memory.wf (hmem .idx)).trans h.idx
  out := (congrArg Memory.wf (hmem .out)).trans h.out

theorem MemInv.storeBytes {s : State} (h : MemInv s) (sp : Space) (bs : List Byte) (a : Nat) :
    MemInv (storeBytes sp a bs s) := by
  induction bs generalizing a s with
  | nil => exact h
  | cons b bs ih =>
    refine ih ?_ (a + 1)
    rw [storeByte]
    split
    · exact h.setByte sp a b
    · exact h

theorem hostBlind_sameCanonical : HostBlind SameCanonical where
  agree := by
    rintro s _ ⟨rfl, -⟩
    exact ⟨_, _, _, _, rfl⟩
  store := by
    rintro s _ sp a bs ⟨rfl, h⟩
    exact ⟨rfl, h.setBytes sp a bs⟩
  drop := by
    rintro s _ ⟨rfl, h⟩
    exact ⟨rfl, h.fb, h.smp, h.pal, h.idx, Memory.wf_forget _⟩
  results := by
    rintro s _ _ _ _ _ _ _ _ _ _ _ ⟨rfl, h⟩
    exact ⟨rfl, h.fb, h.smp, h.pal, h.idx, h.out⟩

theorem MemInv.complete {s : State} (h : MemInv s) : MemInv (complete s) := by
  rcases complete_cases_of_related hostBlind_sameCanonical ⟨rfl, h⟩ with
    ⟨t, _, ⟨rfl, ht⟩, hc, -⟩ | ⟨k, t, _, ⟨rfl, ht⟩, hc, -⟩ <;> rw [hc]
  · exact ht.of_mem_eq fun sp => by cases sp <;> rfl
  · exact ht.errorEntry k

/-- Settles O17: what writes a memory writes bytes in canonical form or forgets them all. -/
theorem stepKeepsMemoryCanonical : Obligations.StepKeepsMemoryCanonical := by
  unfold Obligations.StepKeepsMemoryCanonical
  intro s t hinv hstep
  obtain ⟨queue, hchange⟩ := change_of_step hstep
  have hu : MemInv { s with queue := queue } := hinv.of_mem_eq fun sp => by cases sp <;> rfl
  cases hchange with
  | field c v =>
    rw [writeField_frame]
    exact hu.of_mem_eq fun sp => by cases sp <;> rfl
  | stored sp a bs => exact hu.storeBytes sp bs a
  | cancelled => exact hu.errorEntry .cancelled
  | cleared => exact ⟨hu.fb, hu.smp, hu.pal, hu.idx, Memory.wf_forget _⟩
  | reset => exact ⟨rfl, rfl, rfl, rfl, rfl⟩
  | completed op => exact (hu.of_mem_eq fun sp => by cases sp <;> rfl : MemInv (issue op _)).complete
  | _ => exact hu.of_mem_eq fun sp => by cases sp <;> rfl

end Sys2Proof.Machine
end

section
/-! SUPPORT. The loop of rule R130: an induction principle for what every split keeps, the number of buckets, and how
the loop ends. -/

namespace Sys2Proof.Machine

theorem cutLoop_of_none {cut : CutState} (h : select cut = none) (passes : Nat) : cutLoop passes cut = cut := by
  cases passes with
  | zero => rfl
  | succ passes => rw [cutLoop, h]

theorem cutLoop_succ_of_some {cut : CutState} {best : Candidate} (h : select cut = some best) (passes : Nat) :
    cutLoop (passes + 1) cut = cutLoop passes (splitBucket cut best) := by
  rw [cutLoop, h]

/-- The bucket that Select finds has two members at least (rule R125). -/
theorem bucket_of_select {cut : CutState} {best : Candidate} (h : select cut = some best) :
    ∃ bk, cut.buckets[best.bucket]? = some bk ∧ 2 ≤ bk.len := by
  obtain ⟨⟨bk, hbk, hlen, -⟩, -⟩ := (selectTakesFirstLargestRange cut).2 best h
  exact ⟨bk, hbk, hlen⟩

theorem length_splitBucket {cut : CutState} {best : Candidate} (h : select cut = some best) :
    (splitBucket cut best).buckets.length = cut.buckets.length + 1 := by
  obtain ⟨bk, hbk, -⟩ := bucket_of_select h
  simp [splitBucket_of_getElem? hbk]

/-- What every split of a selected bucket keeps, the loop keeps. -/
theorem cutLoop_induction {P : CutState → Prop}
    (hsplit : ∀ cut best, select cut = some best → P cut → P (splitBucket cut best)) (passes : Nat) {cut : CutState}
    (h : P cut) : P (cutLoop passes cut) := by
  induction passes generalizing cut with
  | zero => exact h
  | succ passes ih =>
    cases hs : select cut with
    | none => rwa [cutLoop_of_none hs]
    | some best =>
      rw [cutLoop_succ_of_some hs]
      exact ih (hsplit cut best hs h)

/-- The loop ends when nothing can be split, or after all its passes, each of which adds one bucket. -/
theorem cutLoop_end (passes : Nat) (cut : CutState) :
    (cutLoop passes cut).buckets.length ≤ cut.buckets.length + passes ∧
      (select (cutLoop passes cut) = none ∨ (cutLoop passes cut).buckets.length = cut.buckets.length + passes) := by
  induction passes generalizing cut with
  | zero => exact ⟨le_rfl, .inr rfl⟩
  | succ passes ih =>
    cases hs : select cut with
    | none =>
      rw [cutLoop_of_none hs]
      exact ⟨Nat.le_add_right _ _, .inl hs⟩
    | some best =>
      have hpass := ih (splitBucket cut best)
      rw [length_splitBucket hs, Nat.add_right_comm, Nat.add_assoc] at hpass
      rwa [cutLoop_succ_of_some hs]

theorem initialCut_nil : initialCut [] = ⟨[], []⟩ := rfl

theorem initialCut_of_ne_nil {samples : List Rgb} (h : samples ≠ []) :
    initialCut samples = ⟨samples, [⟨0, samples.length⟩]⟩ := by
  rw [initialCut, if_neg (mt List.length_eq_zero_iff.mp h)]

theorem length_initialCut_of_ne_nil {samples : List Rgb} (h : samples ≠ []) :
    (initialCut samples).buckets.length = 1 := by
  rw [initialCut_of_ne_nil h]
  rfl

theorem select_nil : select ⟨[], []⟩ = none := rfl

theorem medianCutOf_nil : medianCutOf [] = ⟨[], []⟩ := cutLoop_of_none select_nil 255

/-- MedianCut ends at 256 buckets or when nothing can be split (rule R130). -/
theorem medianCutOf_end (samples : List Rgb) :
    (medianCutOf samples).buckets.length ≤ 256 ∧
      (select (medianCutOf samples) = none ∨ (medianCutOf samples).buckets.length = 256) := by
  by_cases h : samples = []
  · rw [h, medianCutOf_nil]
    exact ⟨Nat.zero_le _, .inl select_nil⟩
  · have hend := cutLoop_end 255 (initialCut samples)
    rwa [length_initialCut_of_ne_nil h] at hend

/-! ### The loop with the guard of rule R130 -/

theorem cutWhile_of_none {cut : CutState} (h : select cut = none) (passes : Nat) :
    Reference.cutWhile passes cut = cut := by
  cases passes with
  | zero => rfl
  | succ passes =>
    rw [Reference.cutWhile, h]
    exact ite_self cut

/-- With as many passes as there are buckets left, the guard never matters. -/
theorem cutWhile_eq_cutLoop {passes : Nat} {cut : CutState} (hpasses : 256 ≤ cut.buckets.length + passes)
    (hlen : cut.buckets.length ≤ 256) :
    Reference.cutWhile passes cut = cutLoop (256 - cut.buckets.length) cut := by
  induction passes generalizing cut with
  | zero =>
    have hfull : 256 - cut.buckets.length = 0 := by omega
    rw [hfull]
    rfl
  | succ passes ih =>
    rw [Reference.cutWhile]
    split
    · next hlt =>
      cases hs : select cut with
      | none => rw [cutLoop_of_none hs]
      | some best =>
        have hnext := length_splitBucket hs
        have hleft : 256 - cut.buckets.length = 256 - (splitBucket cut best).buckets.length + 1 := by omega
        rw [hleft, cutLoop_succ_of_some hs]
        exact ih (by omega) (by omega)
    · next hge =>
      have hfull : 256 - cut.buckets.length = 0 := by omega
      rw [hfull]
      rfl

end Sys2Proof.Machine
end

section
/-! The obligation on the loop of median cut. -/

namespace Sys2Proof.Machine

/-- Settles O45: the guard of rule R130 cuts off no pass, because the first bucket and 255 passes make 256. -/
theorem medianCutRepeatsSelectAndSplit : Obligations.MedianCutRepeatsSelectAndSplit := by
  unfold Obligations.MedianCutRepeatsSelectAndSplit
  refine ⟨fun samples => ?_, fun passes cut h => cutLoop_of_none h _, fun passes cut best h =>
    cutLoop_succ_of_some h passes, fun samples passes hpasses => ?_⟩
  · simp only [initialCut, List.length_eq_zero_iff]
  · by_cases h : samples = []
    · rw [h, medianCutOf_nil, initialCut_nil, cutWhile_of_none select_nil]
    · have hone := length_initialCut_of_ne_nil h
      rw [cutWhile_eq_cutLoop (by omega) (by omega), hone]
      rfl

end Sys2Proof.Machine
end

section
/-! SUPPORT. The buckets of rule R123: they partition the samples, and every split keeps this. -/

namespace Sys2Proof.Machine

/-- Sample `j` is a member of the bucket. -/
def Bucket.Holds (bk : Bucket) (j : Nat) : Prop := bk.start ≤ j ∧ j < bk.start + bk.len

/-- The buckets are not empty, lie inside the `n` samples, and hold each of them exactly once. -/
structure Partitions (n : Nat) (bks : List Bucket) : Prop where
  bounds : ∀ bk ∈ bks, 1 ≤ bk.len ∧ bk.start + bk.len ≤ n
  covers : ∀ j, j < n → ∃ b, (∃ bk, bks[b]? = some bk ∧ bk.Holds j) ∧
    ∀ (b' : Nat) (bk' : Bucket), bks[b']? = some bk' → bk'.Holds j → b' = b

theorem partitions_initialCut (samples : List Rgb) : Partitions samples.length (initialCut samples).buckets := by
  by_cases h : samples = []
  · rw [h, initialCut_nil]
    exact ⟨nofun, nofun⟩
  · have hpos := List.length_pos_of_ne_nil h
    rw [initialCut_of_ne_nil h]
    refine ⟨fun bk hbk => ?_, fun j hj => ⟨0, ⟨_, rfl, ?_⟩, fun b' bk' hb' _ => ?_⟩⟩
    · rw [List.mem_singleton.mp hbk]
      exact ⟨hpos, (Nat.zero_add _).le⟩
    · exact ⟨Nat.zero_le _, by simpa using hj⟩
    · have hlt := (List.getElem?_eq_some_iff.mp hb').1
      simpa using hlt

/-- The buckets after a split of bucket `i`: its lower half keeps its number, the upper half is the last bucket. -/
def splitAt (bks : List Bucket) (i : Nat) (bk : Bucket) (mid : Nat) : List Bucket :=
  bks.set i ⟨bk.start, mid⟩ ++ [⟨bk.start + mid, bk.len - mid⟩]

theorem getElem?_splitAt {bks : List Bucket} {i : Nat} (hi : i < bks.length) (bk : Bucket) (mid b : Nat) :
    (splitAt bks i bk mid)[b]? =
      if b = i then some ⟨bk.start, mid⟩ else if b = bks.length then some ⟨bk.start + mid, bk.len - mid⟩ else bks[b]? := by
  rw [splitAt]
  split
  · next h =>
    subst b
    rw [List.getElem?_append_left (by simpa using hi), List.getElem?_set_self hi]
  · next hne =>
    split
    · next h => simp [h]
    · next hlast =>
      by_cases hb : b < bks.length
      · rw [List.getElem?_append_left (by simpa using hb), List.getElem?_set_ne (Ne.symm hne)]
      · rw [List.getElem?_eq_none (by simp; omega), List.getElem?_eq_none (by omega)]

theorem Partitions.splitAt {n : Nat} {bks : List Bucket} (h : Partitions n bks) {i : Nat} {bk : Bucket}
    (hbk : bks[i]? = some bk) {mid : Nat} (hlow : 1 ≤ mid) (hhigh : mid < bk.len) :
    Partitions n (splitAt bks i bk mid) := by
  have hi : i < bks.length := (List.getElem?_eq_some_iff.mp hbk).1
  have hget := getElem?_splitAt hi bk mid
  refine ⟨fun bk' hbk' => ?_, fun j hj => ?_⟩
  · obtain ⟨b, hb⟩ := List.mem_iff_getElem?.mp hbk'
    obtain ⟨-, hinside⟩ := h.bounds bk (List.mem_of_getElem? hbk)
    rw [hget] at hb
    split at hb
    · cases hb
      exact ⟨hlow, show bk.start + mid ≤ n by omega⟩
    · split at hb
      · cases hb
        exact ⟨show 1 ≤ bk.len - mid by omega, show bk.start + mid + (bk.len - mid) ≤ n by omega⟩
      · exact h.bounds bk' (List.mem_of_getElem? hb)
  · obtain ⟨b, ⟨bk₀, hbk₀, hholds⟩, hunique⟩ := h.covers j hj
    -- the bucket that holds `j` after the split lies in the one that held it before
    have hold : ∀ (b' : Nat) (bk' : Bucket), (Machine.splitAt bks i bk mid)[b']? = some bk' → bk'.Holds j →
        (b' = i ∧ i = b ∧ j < bk.start + mid) ∨ (b' = bks.length ∧ i = b ∧ bk.start + mid ≤ j) ∨
          (b' ≠ i ∧ b' ≠ bks.length ∧ b' = b) := by
      intro b' bk' hb' hj'
      rw [hget] at hb'
      split at hb'
      · next hi' =>
        cases hb'
        exact .inl ⟨hi', hunique i bk hbk ⟨hj'.1, hj'.2.trans (by simp; omega)⟩, hj'.2⟩
      · next hne =>
        split at hb'
        · next hlast =>
          cases hb'
          have hstart : bk.start + mid ≤ j := hj'.1
          have hend : j < bk.start + mid + (bk.len - mid) := hj'.2
          exact .inr (.inl ⟨hlast, hunique i bk hbk ⟨by omega, by omega⟩, hj'.1⟩)
        · next hlast => exact .inr (.inr ⟨hne, hlast, hunique b' bk' hb' hj'⟩)
    have hblt : b < bks.length := (List.getElem?_eq_some_iff.mp hbk₀).1
    by_cases hb : b = i
    · obtain rfl : bk = bk₀ := Option.some.inj (hbk.symm.trans (hb ▸ hbk₀))
      by_cases hj' : j < bk.start + mid
      · refine ⟨i, ⟨⟨bk.start, mid⟩, by rw [hget, if_pos rfl], hholds.1, hj'⟩, fun b' bk' hb' hholds' => ?_⟩
        have := hold b' bk' hb' hholds'
        omega
      · refine ⟨bks.length, ⟨⟨bk.start + mid, bk.len - mid⟩, ?_, Nat.le_of_not_lt hj', ?_⟩, fun b' bk' hb' hholds' => ?_⟩
        · rw [hget, if_neg (by omega), if_pos rfl]
        · have hend := hholds.2
          show j < bk.start + mid + (bk.len - mid)
          omega
        · have := hold b' bk' hb' hholds'
          omega
    · refine ⟨b, ⟨bk₀, ?_, hholds⟩, fun b' bk' hb' hholds' => ?_⟩
      · rw [hget, if_neg hb, if_neg (by omega), hbk₀]
      · have := hold b' bk' hb' hholds'
        omega

/-! ### What the loop keeps -/

theorem sortBucket_perm (samples : List Rgb) (bk : Bucket) (c : Channel) : (sortBucket samples bk c).Perm samples := by
  have hparts : samples.take bk.start ++ bucketMembers samples bk ++ samples.drop (bk.start + bk.len) = samples := by
    rw [bucketMembers, List.append_assoc, ← List.drop_drop, List.take_append_drop, List.take_append_drop]
  conv_rhs => rw [← hparts]
  exact ((sortByChan_perm c _).append_left _).append_right _

/-- The samples are those MedianCut began with in another order, and the buckets partition them (rule R123). -/
structure CutInv (samples : List Rgb) (cut : CutState) : Prop where
  perm : cut.samples.Perm samples
  partitions : Partitions samples.length cut.buckets

theorem CutInv.splitBucket {samples : List Rgb} {cut : CutState} {best : Candidate} (hs : select cut = some best)
    (h : CutInv samples cut) : CutInv samples (splitBucket cut best) := by
  obtain ⟨bk, hbk, hlen⟩ := bucket_of_select hs
  rw [splitBucket_of_getElem? hbk]
  exact ⟨(sortBucket_perm _ _ _).trans h.perm, h.partitions.splitAt hbk (by omega) (by omega)⟩

theorem cutInv_medianCutOf (samples : List Rgb) : CutInv samples (medianCutOf samples) :=
  cutLoop_induction (fun _ _ hs => CutInv.splitBucket hs) 255 ⟨.refl samples, partitions_initialCut samples⟩

theorem length_samples_medianCutOf (samples : List Rgb) : (medianCutOf samples).samples.length = samples.length :=
  (cutInv_medianCutOf samples).perm.length_eq

/-! ### The palette -/

theorem length_paletteOf {cut : CutState} (h : cut.buckets.length ≤ 256) : (paletteOf cut).length = 256 := by
  simp [paletteOf, h]

/-- The entry of a bucket is the mean of its members. -/
theorem getElem?_paletteOf {cut : CutState} {b : Nat} {bk : Bucket} (h : cut.buckets[b]? = some bk) :
    (paletteOf cut)[b]? = some (meanColour (bucketMembers cut.samples bk)) := by
  have hb : b < cut.buckets.length := (List.getElem?_eq_some_iff.mp h).1
  rw [paletteOf, List.getElem?_append_left (by simpa using hb), List.getElem?_map, h, Option.map_some]

/-- The entries behind those of the buckets are black. -/
theorem getElem?_paletteOf_of_le {cut : CutState} {b : Nat} (h : cut.buckets.length ≤ b) (hb : b < 256) :
    (paletteOf cut)[b]? = some black := by
  rw [paletteOf, List.getElem?_append_right (by simpa using h), List.length_map, List.getElem?_replicate,
    if_pos (by omega)]

end Sys2Proof.Machine
end

section
/-! SUPPORT. What the lists a host or a command wrote to SMP, PAL and IDX read back as, and the procedure MedianCut on
the state (rules R130, R131). -/

namespace Sys2Proof.Machine

/-! ### Lists in a memory -/

theorem byte_of_mem_eq {s t : State} {sp : Space} (h : t.mem sp = s.mem sp) (a : Nat) : t.byte sp a = s.byte sp a := by
  rw [State.byte, h, State.byte]

theorem rgbAt_of_mem_eq {s t : State} {sp : Space} (h : t.mem sp = s.mem sp) (a : Nat) :
    t.rgbAt sp a = s.rgbAt sp a := by
  simp only [State.rgbAt, byte_of_mem_eq h]

/-- Colours written from offset 0 on read back as they were written. -/
theorem map_rgbAt_of_mem_eq {s t : State} {sp : Space} {cs : List Rgb}
    (h : t.mem sp = (s.setBytes sp 0 (cs.flatMap Rgb.bytes)).mem sp) :
    ((List.range cs.length).map fun j => t.rgbAt sp (3 * j)) = cs := by
  refine List.ext_getElem (by simp) fun j _ hj => ?_
  rw [List.getElem_map, List.getElem_range, rgbAt_of_mem_eq h,
    rgbAt_setBytes_flatMap s sp (List.getElem?_eq_getElem hj)]

theorem samples_of_smp_eq {s t : State} {cs : List Rgb} (hmem : t.smp = (s.setSamples cs).smp)
    (hcount : t.smpCount.toNat = cs.length) : t.samples = cs := by
  rw [State.samples, hcount]
  exact map_rgbAt_of_mem_eq (sp := .smp) hmem

theorem palette_of_pal_eq {s t : State} {cs : List Rgb} (hmem : t.pal = (s.setPalette cs).pal)
    (hlen : cs.length = 256) : t.palette = cs := by
  rw [State.palette, ← hlen]
  exact map_rgbAt_of_mem_eq (sp := .pal) hmem

/-- Bytes written to IDX from offset 0 on read back as they were written. -/
theorem symbols_of_idx_eq {s t : State} {bs : List Byte} (hmem : t.idx = (s.setBytes .idx 0 bs).idx) :
    t.symbols bs.length = bs := by
  refine List.ext_getElem (by simp [State.symbols]) fun i _ hi => ?_
  simp only [State.symbols, List.getElem_map, List.getElem_range]
  rw [byte_of_mem_eq (s := s.setBytes .idx 0 bs) (sp := .idx) hmem, byte_setBytes, if_pos ⟨Nat.zero_le _, by omega⟩,
    Nat.sub_zero, List.getElem?_eq_getElem hi, Option.getD_some]

@[simp] theorem length_samples (s : State) : s.samples.length = s.smpCount.toNat := by
  simp [State.samples]

@[simp] theorem length_palette (s : State) : s.palette.length = 256 := by
  simp [State.palette]

theorem palAt_eq_of_getElem?_palette {s : State} {b : Nat} {c : Rgb} (h : s.palette[b]? = some c) : s.palAt b = c := by
  have hb : b < 256 := by simpa using (List.getElem?_eq_some_iff.mp h).1
  simpa [State.palette, hb] using h

/-! ### MedianCut on the state -/

/-- The results of MedianCut written back: samples, palette and buckets. -/
def writeCut (cs pal : List Rgb) (bks : List Bucket) (s : State) : State :=
  { (s.setSamples cs).setPalette pal with bkt := bks, bktCount := BitVec.ofNat 9 bks.length }

theorem medianCut_eq_writeCut (s : State) :
    medianCut s =
      writeCut (medianCutOf s.samples).samples (paletteOf (medianCutOf s.samples)) (medianCutOf s.samples).buckets s :=
  rfl

theorem writeCut_frame (cs pal : List Rgb) (bks : List Bucket) (s : State) :
    writeCut cs pal bks s =
      { s with
        smp := (writeCut cs pal bks s).smp, bkt := (writeCut cs pal bks s).bkt
        bktCount := (writeCut cs pal bks s).bktCount, pal := (writeCut cs pal bks s).pal } := rfl

theorem samples_writeCut {cs : List Rgb} (pal : List Rgb) (bks : List Bucket) {s : State}
    (h : s.smpCount.toNat = cs.length) : (writeCut cs pal bks s).samples = cs :=
  samples_of_smp_eq (s := s) rfl h

theorem palette_writeCut (cs : List Rgb) {pal : List Rgb} (bks : List Bucket) (s : State) (h : pal.length = 256) :
    (writeCut cs pal bks s).palette = pal :=
  palette_of_pal_eq (s := s) rfl h

theorem byte_smp_writeCut (cs pal : List Rgb) (bks : List Bucket) (s : State) {x : Nat} (hx : 3 * cs.length ≤ x) :
    (writeCut cs pal bks s).byte .smp x = s.byte .smp x :=
  byte_setBytes_flatMap_of_le s .smp cs hx

theorem byte_pal_writeCut (cs pal : List Rgb) (bks : List Bucket) (s : State) {x : Nat} (hx : 3 * pal.length ≤ x) :
    (writeCut cs pal bks s).byte .pal x = s.byte .pal x :=
  byte_setBytes_flatMap_of_le s .pal pal hx

theorem medianCut_frame (s : State) :
    medianCut s =
      { s with
        smp := (medianCut s).smp, bkt := (medianCut s).bkt, bktCount := (medianCut s).bktCount
        pal := (medianCut s).pal } := by
  rw [medianCut_eq_writeCut]
  exact writeCut_frame _ _ _ s

theorem medianCut_bkt (s : State) : (medianCut s).bkt = (medianCutOf s.samples).buckets := rfl

theorem medianCut_bktCount (s : State) : (medianCut s).bktCount.toNat = (medianCutOf s.samples).buckets.length := by
  have hle := (medianCutOf_end s.samples).1
  rw [medianCut, BitVec.toNat_ofNat]
  omega

theorem medianCut_samples (s : State) : (medianCut s).samples = (medianCutOf s.samples).samples := by
  have hcount : s.smpCount.toNat = (medianCutOf s.samples).samples.length := by
    rw [length_samples_medianCutOf, length_samples]
  rw [medianCut_eq_writeCut]
  exact samples_writeCut _ _ hcount

theorem medianCut_palette (s : State) : (medianCut s).palette = paletteOf (medianCutOf s.samples) := by
  rw [medianCut_eq_writeCut]
  exact palette_writeCut _ _ s (length_paletteOf (medianCutOf_end s.samples).1)

/-- The bytes of SMP behind the samples are as before. -/
theorem byte_smp_medianCut (s : State) {x : Nat} (hx : 3 * s.smpCount.toNat ≤ x) :
    (medianCut s).byte .smp x = s.byte .smp x := by
  rw [← length_samples, ← length_samples_medianCutOf] at hx
  rw [medianCut_eq_writeCut]
  exact byte_smp_writeCut _ _ _ s hx

/-- The bytes of PAL behind the palette are as before. -/
theorem byte_pal_medianCut (s : State) {x : Nat} (hx : 768 ≤ x) : (medianCut s).byte .pal x = s.byte .pal x := by
  have hlen := length_paletteOf (medianCutOf_end s.samples).1
  rw [medianCut_eq_writeCut]
  exact byte_pal_writeCut _ _ _ s (by omega)

/-! ### Completion -/

/-- A ready command whose body succeeds lets the working registers go. -/
theorem exec_of_body_ok {op : IssuedOp} {s u : State} (hwf : op.instr.wf = true) (h : Ready op.legalPhase s)
    (hbody : (bodyOf (issue op s)).2 = .ok u) :
    exec op.instr s = .next { forgetWorking u with busy := false } := by
  rw [exec_of_ready hwf h]
  rcases complete_cases (issue op s) with ⟨t, ht, hc⟩ | ⟨k, hk, -⟩
  · rw [hc, Except.ok.inj (ht.symm.trans hbody)]
  · exact nomatch hk.symm.trans hbody

/-- A ready command whose body raises an error ends in error entry. -/
theorem exec_of_body_error {op : IssuedOp} {s : State} {k : ErrCode} (hwf : op.instr.wf = true)
    (h : Ready op.legalPhase s) (hbody : (bodyOf (issue op s)).2 = .error k) :
    exec op.instr s = .next (errorEntry k (bodyOf (issue op s)).1) := by
  rw [exec_of_ready hwf h]
  rcases complete_cases (issue op s) with ⟨t, ht, -⟩ | ⟨k', hk, hc⟩
  · exact nomatch ht.symm.trans hbody
  · rw [hc, Except.error.inj (hk.symm.trans hbody)]

/-- Besides the results of its body, a completion writes the working registers only. -/
theorem completion_frame {op : IssuedOp} {s u : State} (hb : s.busy = false) (hu : SameButResults (issue op s) u) :
    { forgetWorking u with busy := false } =
      { s with
        phase := u.phase, framesDone := u.framesDone, outLen := u.outLen, smpCount := u.smpCount
        bktCount := u.bktCount, idxLen := u.idxLen, stride := u.stride, bkt := u.bkt
        smp := u.smp, pal := u.pal, idx := u.idx, out := u.out
        curOp := (forgetWorking u).curOp, lzw := (forgetWorking u).lzw, pack := (forgetWorking u).pack
        draws := (forgetWorking u).draws } := by
  rw [hu, hb]
  rfl

/-- Besides its results MCUT writes the working registers only. -/
theorem mcut_completion_frame {s u : State} (hb : s.busy = false)
    (hu : u = { issue .mcut s with smp := u.smp, bkt := u.bkt, bktCount := u.bktCount, pal := u.pal }) :
    { forgetWorking u with busy := false } =
      { s with
        smp := u.smp, bkt := u.bkt, bktCount := u.bktCount, pal := u.pal
        curOp := (forgetWorking u).curOp, lzw := (forgetWorking u).lzw, pack := (forgetWorking u).pack
        draws := (forgetWorking u).draws } := by
  rw [hu, hb]
  rfl

/-- A ready MCUT cuts the samples there are. -/
theorem exec_mcut_of_ready {s : State} (h : Ready .idle s) :
    exec .mcut s = .next { forgetWorking (medianCut (issue .mcut s)) with busy := false } :=
  exec_of_body_ok (op := .mcut) rfl h rfl

/-! ### Samples of one colour -/

theorem chanRange_of_const {cs : List Rgb} {colour : Rgb} (h : ∀ t ∈ cs, t = colour) (c : Channel) :
    cs ≠ [] → chanRange cs c = 0 := by
  intro hne
  obtain ⟨hi, hhi, hmax, -⟩ := chanMax_attained hne c
  obtain ⟨lo, hlo, hmin, -⟩ := chanMin_attained hne c
  rw [chanRange, hmax, hmin, h hi hhi, h lo hlo, Nat.sub_self]

theorem meanColour_of_const {cs : List Rgb} {colour : Rgb} (hne : cs ≠ []) (h : ∀ t ∈ cs, t = colour) :
    meanColour cs = colour := by
  have hchan : ∀ c : Channel, (meanColour cs).chan c = colour.chan c := by
    intro c
    apply BitVec.eq_of_toNat_eq
    rw [toNat_chan_meanColour hne]
    exact le_antisymm (chanMean_le hne fun t ht => by rw [h t ht]) (le_chanMean hne fun t ht => by rw [h t ht])
  have hred := hchan .red
  have hgreen := hchan .green
  have hblue := hchan .blue
  cases hc : meanColour cs
  cases colour
  simp_all [Rgb.chan]

/-- Samples of one colour are not split (rule R132). -/
theorem medianCutOf_of_const {samples : List Rgb} {colour : Rgb} (hne : samples ≠ [])
    (h : ∀ t ∈ samples, t = colour) : medianCutOf samples = ⟨samples, [⟨0, samples.length⟩]⟩ := by
  rw [medianCutOf, initialCut_of_ne_nil hne]
  refine cutLoop_of_none ?_ 255
  by_contra hsome
  obtain ⟨best, hbest⟩ := Option.ne_none_iff_exists'.mp hsome
  obtain ⟨⟨bk, hbk, -, hrange, hpos⟩, -⟩ := (selectTakesFirstLargestRange _).2 best hbest
  obtain rfl : bk = ⟨0, samples.length⟩ := by simpa using List.mem_of_getElem? hbk
  have hall : bucketMembers samples ⟨0, samples.length⟩ = samples := by simp [bucketMembers]
  rw [hall, chanRange_of_const h _ hne] at hrange
  omega

end Sys2Proof.Machine
end

section
/-! The obligations on MCUT. -/

namespace Sys2Proof.Machine

/-- Settles O47: the buckets partition the samples at the start and after every split, and the loop ends at 256 buckets
or when Select finds nothing. -/
theorem mcutBuildsThePalette : Obligations.McutBuildsThePalette := by
  unfold Obligations.McutBuildsThePalette
  intro s _ hready
  have hexec := exec_mcut_of_ready hready
  have hsamples : (medianCut (issue .mcut s)).samples = (medianCutOf s.samples).samples := medianCut_samples _
  have hpalette : (medianCut (issue .mcut s)).palette = paletteOf (medianCutOf s.samples) := medianCut_palette _
  have hbkt : (medianCut (issue .mcut s)).bkt = (medianCutOf s.samples).buckets := medianCut_bkt _
  have hcount : (medianCut (issue .mcut s)).bktCount.toNat = (medianCutOf s.samples).buckets.length :=
    medianCut_bktCount _
  have hsmp : ∀ x, 3 * s.smpCount.toNat ≤ x → (medianCut (issue .mcut s)).byte .smp x = s.byte .smp x :=
    fun x => byte_smp_medianCut _
  have hpal : ∀ x, 768 ≤ x → (medianCut (issue .mcut s)).byte .pal x = s.byte .pal x := fun x => byte_pal_medianCut _
  have hframe := mcut_completion_frame hready.idle (medianCut_frame (issue .mcut s))
  generalize medianCut (issue .mcut s) = u at hexec hsamples hpalette hbkt hcount hsmp hpal hframe
  obtain ⟨hle, hend⟩ := medianCutOf_end s.samples
  obtain ⟨hperm, hparts⟩ := cutInv_medianCutOf s.samples
  rw [length_samples] at hparts
  rw [← hbkt] at hle hend hparts hcount
  have hentry : ∀ (b : Nat) (c : Rgb), (paletteOf (medianCutOf s.samples))[b]? = some c → u.palAt b = c :=
    fun b c h => palAt_eq_of_getElem?_palette (hpalette ▸ h)
  refine ⟨_, hexec, hsamples, hbkt, hsamples ▸ hperm, hcount, hle, hparts.bounds, fun j hj => ?_, ?_, fun b bk hb => ?_,
    fun b hb hb' => hentry b _ (getElem?_paletteOf_of_le (hbkt ▸ hb) hb'), hsmp, hpal, hframe⟩
  · obtain ⟨b, hholds, hunique⟩ := hparts.covers j hj
    exact ⟨b, hholds, fun b' bk' hb' hstart hend => hunique b' bk' hb' ⟨hstart, hend⟩⟩
  · refine hend.symm.imp_right fun hnone bk hbk' => ?_
    obtain ⟨b, hb⟩ := List.mem_iff_getElem?.mp hbk'
    refine (Nat.lt_or_ge bk.len 2).imp_right fun hlen c => ?_
    have hrange := (selectTakesFirstLargestRange _).1 hnone b bk c (hbkt ▸ hb) hlen
    rwa [← hsamples] at hrange
  · have hmean := hentry b _ (getElem?_paletteOf (hbkt ▸ hb))
    rwa [← hsamples] at hmean

/-- Settles O48: without samples there is no bucket, and samples of one colour make one bucket that is not split. -/
theorem degenerateSampleSets : Obligations.DegenerateSampleSets := by
  unfold Obligations.DegenerateSampleSets
  intro s _ hready
  have hexec := exec_mcut_of_ready hready
  have hpalette : (medianCut (issue .mcut s)).palette = paletteOf (medianCutOf s.samples) := medianCut_palette _
  have hcount : (medianCut (issue .mcut s)).bktCount.toNat = (medianCutOf s.samples).buckets.length :=
    medianCut_bktCount _
  generalize medianCut (issue .mcut s) = u at hexec hpalette hcount
  have hentry : ∀ (b : Nat) (c : Rgb), (paletteOf (medianCutOf s.samples))[b]? = some c → u.palAt b = c :=
    fun b c h => palAt_eq_of_getElem?_palette (hpalette ▸ h)
  refine ⟨fun hzero => ?_, fun colour hne hcolour => ?_⟩
  · have hempty : s.samples = [] := List.length_eq_zero_iff.mp (by rw [length_samples, hzero]; rfl)
    rw [hempty, medianCutOf_nil] at hcount hentry
    exact ⟨_, hexec, BitVec.eq_of_toNat_eq hcount, fun b hb => hentry b _ (getElem?_paletteOf_of_le (Nat.zero_le _) hb)⟩
  · have hconst : ∀ t ∈ s.samples, t = colour := by
      simpa [State.samples] using hcolour
    have hsome : s.samples ≠ [] := by
      rw [← List.length_pos_iff, length_samples]
      exact Nat.pos_of_ne_zero fun h => hne (BitVec.eq_of_toNat_eq h)
    have hall : bucketMembers s.samples ⟨0, s.samples.length⟩ = s.samples := by simp [bucketMembers]
    rw [medianCutOf_of_const hsome hconst] at hcount hentry
    refine ⟨_, hexec, BitVec.eq_of_toNat_eq hcount, ?_, fun b hb hb' => hentry b _ (getElem?_paletteOf_of_le hb hb')⟩
    have hmean := hentry 0 _ (getElem?_paletteOf (bk := ⟨0, s.samples.length⟩) rfl)
    rwa [hall, meanColour_of_const hsome hconst] at hmean

end Sys2Proof.Machine
end

section
/-! SUPPORT. The nearest entry of a palette (rules R141 to R143). -/

namespace Sys2Proof.Machine

/-- The square of the difference does not depend on its sign (rule R142). -/
theorem squaredDiff_cast (a b : Byte) : (squaredDiff a b : Int) = ((a.toNat : Int) - b.toNat) ^ 2 := by
  rw [squaredDiff]
  rcases Nat.le_total a.toNat b.toNat with h | h
  · simp only [Nat.max_eq_right h, Nat.min_eq_left h]
    push_cast [h]
    ring
  · simp only [Nat.max_eq_left h, Nat.min_eq_right h]
    push_cast [h]
    ring

theorem dist_cast (t u : Rgb) : (dist t u : Int) = squaredDistance t u := by
  rw [dist, squaredDistance, ← squaredDiff_cast, ← squaredDiff_cast, ← squaredDiff_cast]
  push_cast
  rfl

/-- `best` is the first of the entries at the smallest distance from the pixel. -/
structure Nearest (px : Rgb) (palette : List Rgb) (best : Nat) : Prop where
  entry : ∃ e, palette[best]? = some e ∧ (∀ e' ∈ palette, dist px e ≤ dist px e') ∧
    ∀ k e', k < best → palette[k]? = some e' → dist px e < dist px e'

/-- The inner loop of rule R141, after the entries `front` whose best one is known. -/
theorem nearest_nearestFrom {px : Rgb} (rest : List Rgb) {front : List Rgb} {best : Nat} {e : Rgb}
    (hbest : front[best]? = some e) (hle : ∀ e' ∈ front, dist px e ≤ dist px e')
    (hlt : ∀ k e', k < best → front[k]? = some e' → dist px e < dist px e') :
    Nearest px (front ++ rest) (nearestFrom px front.length rest best (dist px e)) := by
  induction rest generalizing front best e with
  | nil =>
    rw [List.append_nil]
    exact ⟨e, hbest, hle, hlt⟩
  | cons u us ih =>
    have hlen : (front ++ [u]).length = front.length + 1 := by simp
    have hlt_of_mem : ∀ k e', k < front.length → (front ++ [u])[k]? = some e' → e' ∈ front := by
      intro k e' hk he'
      rw [List.getElem?_append_left hk] at he'
      exact List.mem_of_getElem? he'
    have hblt := (List.getElem?_eq_some_iff.mp hbest).1
    rw [List.append_cons, nearestFrom, ← hlen]
    split
    · next hnear =>
      refine ih (by simp) (fun e' he' => ?_) fun k e' hk he' => ?_
      · rcases List.mem_append.mp he' with he' | he'
        · exact hnear.le.trans (hle e' he')
        · rw [List.mem_singleton.mp he']
      · exact hnear.trans_le (hle e' (hlt_of_mem k e' hk he'))
    · next hfar =>
      refine ih ?_ (fun e' he' => ?_) fun k e' hk he' => ?_
      · rw [List.getElem?_append_left hblt, hbest]
      · rcases List.mem_append.mp he' with he' | he'
        · exact hle e' he'
        · rw [List.mem_singleton.mp he']
          exact Nat.le_of_not_lt hfar
      · rw [List.getElem?_append_left (by omega)] at he'
        exact hlt k e' hk he'

theorem nearest_spec {palette : List Rgb} (h : palette ≠ []) (px : Rgb) : Nearest px palette (nearest palette px) := by
  cases palette with
  | nil => exact absurd rfl h
  | cons e es =>
    refine nearest_nearestFrom es (front := [e]) (best := 0) rfl (fun e' he' => ?_) fun k e' hk _ => absurd hk (by simp)
    rw [List.mem_singleton.mp he']

theorem nearest_lt {palette : List Rgb} (h : palette ≠ []) (px : Rgb) : nearest palette px < palette.length := by
  obtain ⟨e, he, -⟩ := (nearest_spec h px).entry
  exact (List.getElem?_eq_some_iff.mp he).1

/-! ### Index on the state -/

theorem indexFrame_symbols (n : Nat) (s : State) :
    (indexFrame n s).symbols n = (List.range n).map fun p => BitVec.ofNat 8 (nearest s.palette (s.pixel p)) := by
  have hsymbols := symbols_of_idx_eq (s := s) (t := indexFrame n s)
    (bs := (List.range n).map fun p => BitVec.ofNat 8 (nearest s.palette (s.pixel p))) rfl
  rwa [List.length_map, List.length_range] at hsymbols

theorem indexFrame_idxLen {n : Nat} (hsmall : n < 2 ^ 32) (s : State) : (indexFrame n s).idxLen.toNat = n := by
  rw [indexFrame, BitVec.toNat_ofNat, Nat.mod_eq_of_lt hsmall]

/-- The byte of a pixel is the number of its entry: 256 entries fit a byte. -/
theorem byte_idx_indexFrame {n p : Nat} (hp : p < n) (s : State) :
    ((indexFrame n s).byte .idx p).toNat = nearest s.palette (s.pixel p) := by
  have hlt := nearest_lt (palette := s.palette) (by simp [State.palette]) (s.pixel p)
  rw [length_palette] at hlt
  have hbyte := congrArg (·[p]?) (indexFrame_symbols n s)
  simp only [State.symbols, List.getElem?_map, List.getElem?_range hp, Option.map_some, Option.some.injEq] at hbyte
  rw [hbyte, BitVec.toNat_ofNat]
  omega

/-- The bytes of IDX behind the frame are as before. -/
theorem byte_idx_indexFrame_of_le {n x : Nat} (hx : n ≤ x) (s : State) :
    (indexFrame n s).byte .idx x = s.byte .idx x :=
  (byte_setBytes s .idx 0 x _).trans (if_neg (by simp; omega))

/-- A ready INDEX on a frame that fits FB indexes it. -/
theorem exec_index_of_ready {s : State} (h : Ready .idle s) (hfits : s.framePixels ≤ s.params.maxPixels) :
    exec .index s = .next { forgetWorking (indexFrame s.framePixels (issue .index s)) with busy := false } :=
  exec_of_body_ok (op := .index) rfl h (if_neg (Nat.not_lt.mpr hfits))

end Sys2Proof.Machine
end

section
/-! The obligation on INDEX. -/

namespace Sys2Proof.Machine

/-- Settles O49: INDEX completes with what the search of rule R141 finds for each pixel. -/
theorem indexTakesNearestEntry : Obligations.IndexTakesNearestEntry := by
  unfold Obligations.IndexTakesNearestEntry
  intro s hinv hready n hfits
  obtain ⟨-, -, hmax, -, -⟩ := hinv.params
  have hsmall : n < 2 ^ 32 := (hfits.trans hmax).trans_lt (by decide)
  refine ⟨_, exec_index_of_ready hready hfits, indexFrame_idxLen hsmall (issue .index s), fun p hp => ?_,
    fun x hx => byte_idx_indexFrame_of_le hx (issue .index s), ?_⟩
  · intro best distance
    have hbest : best = nearest s.palette (s.pixel p) := byte_idx_indexFrame hp (issue .index s)
    obtain ⟨e, he, hle, hlt⟩ := (nearest_spec (palette := s.palette) (by simp [State.palette]) (s.pixel p)).entry
    rw [← hbest] at he hlt
    have hentry : ∀ k, k < 256 → s.palette[k]? = some (s.palAt k) := fun k hk => by simp [State.palette, hk]
    have hdist : ∀ k, distance k = (dist (s.pixel p) (s.palAt k) : Int) := fun k => (dist_cast _ _).symm
    have hnear : s.palAt best = e := palAt_eq_of_getElem?_palette he
    refine ⟨fun k hk => ?_, fun k hk => ?_⟩
    · rw [hdist, hdist, hnear]
      exact Int.ofNat_le.mpr (hle _ (List.mem_of_getElem? (hentry k hk)))
    · have hk' : k < 256 := hk.trans (by simpa using (List.getElem?_eq_some_iff.mp he).1)
      rw [hdist, hdist, hnear]
      exact Int.ofNat_lt.mpr (hlt k _ hk (hentry k hk'))
  · have hb := hready.idle
    rw [← hb]
    rfl

end Sys2Proof.Machine
end

section
/-! SUPPORT. Lists cut into chunks, the bits of codes, and the bytes and sub-blocks they are packed into (rules R104,
R174, R176). -/

namespace Sys2Proof.Machine

open Reference (Code codeBits bitsValue packBits subBlocks)

/-! ### Chunks -/

/-- A list in chunks of `k`, the last one of what is left. -/
def chunks {α : Type} (k : Nat) (l : List α) : List (List α) :=
  (List.range (ceilDiv l.length k)).map fun i => (l.drop (k * i)).take k

section Chunks

variable {α : Type} {k : Nat}

@[simp] theorem length_chunks (l : List α) : (chunks k l).length = ceilDiv l.length k := by
  simp [chunks]

theorem chunks_nil (hk : 0 < k) : chunks k ([] : List α) = [] := by
  have hzero : ceilDiv 0 k = 0 := Nat.le_zero.mp ((ceilDiv_le_iff hk).mpr (Nat.zero_le _))
  simp [chunks, hzero]

theorem ceilDiv_add_self (hk : 0 < k) (n : Nat) : ceilDiv (k + n) k = ceilDiv n k + 1 := by
  rw [ceilDiv, ceilDiv, ← Nat.add_div_right _ hk]
  congr 1
  omega

theorem chunks_append (hk : 0 < k) {l : List α} (hl : l.length = k) (r : List α) :
    chunks k (l ++ r) = l :: chunks k r := by
  rw [chunks, List.length_append, hl, ceilDiv_add_self hk, List.range_succ_eq_map, List.map_cons, List.map_map, chunks,
    Nat.mul_zero, List.drop_zero, List.take_left' hl]
  congr 1
  refine List.map_congr_left fun i _ => ?_
  rw [Function.comp_apply, Nat.mul_succ, Nat.add_comm, ← List.drop_drop, List.drop_left' hl]

theorem chunks_of_short {l : List α} (hpos : 0 < l.length) (hle : l.length ≤ k) : chunks k l = [l] := by
  have hk : 0 < k := hpos.trans_le hle
  have hone : ceilDiv l.length k = 1 :=
    le_antisymm ((ceilDiv_le_iff hk).mpr (by omega)) (ceilDiv_pos hpos hk)
  rw [chunks, hone]
  simp [List.take_of_length_le hle]

/-- A list is empty, one chunk, or a full chunk in front of a shorter list. -/
theorem chunks_induction (hk : 0 < k) {P : List α → Prop} (hnil : P [])
    (hshort : ∀ l, 0 < l.length → l.length ≤ k → P l)
    (happend : ∀ l r, l.length = k → 0 < r.length → P r → P (l ++ r)) (l : List α) : P l := by
  induction hn : l.length using Nat.strong_induction_on generalizing l with
  | _ n ih =>
    by_cases hle : l.length ≤ k
    · rcases Nat.eq_zero_or_pos l.length with hzero | hpos
      · rwa [List.length_eq_zero_iff.mp hzero]
      · exact hshort l hpos hle
    · rw [← List.take_append_drop k l]
      have hdrop : (l.drop k).length = l.length - k := List.length_drop
      exact happend _ _ (List.length_take_of_le (by omega)) (by omega) (ih _ (by omega) _ rfl)

theorem flatten_chunks (hk : 0 < k) (l : List α) : (chunks k l).flatten = l := by
  induction l using chunks_induction hk with
  | hnil => rw [chunks_nil hk, List.flatten_nil]
  | hshort l hpos hle => rw [chunks_of_short hpos hle, List.flatten_singleton]
  | happend l r hl _ ih => rw [chunks_append hk hl, List.flatten_cons, ih]

/-- Every chunk has a member, and none more than `k`. -/
theorem length_of_mem_chunks (hk : 0 < k) {l c : List α} (h : c ∈ chunks k l) : 1 ≤ c.length ∧ c.length ≤ k := by
  induction l using chunks_induction hk with
  | hnil =>
    rw [chunks_nil hk] at h
    cases h
  | hshort l hpos hle =>
    rw [chunks_of_short hpos hle, List.mem_singleton] at h
    exact h ▸ ⟨hpos, hle⟩
  | happend l r hl _ ih =>
    rw [chunks_append hk hl, List.mem_cons] at h
    rcases h with rfl | h
    · exact ⟨hl ▸ hk, hl.le⟩
    · exact ih h

/-- Only the last chunk can be shorter than `k`. -/
theorem length_of_mem_dropLast_chunks (hk : 0 < k) {l c : List α} (h : c ∈ (chunks k l).dropLast) : c.length = k := by
  induction l using chunks_induction hk with
  | hnil =>
    rw [chunks_nil hk] at h
    cases h
  | hshort l hpos hle =>
    rw [chunks_of_short hpos hle] at h
    cases h
  | happend l r hl hr ih =>
    have hne : chunks k r ≠ [] := List.ne_nil_of_length_pos (by rw [length_chunks]; exact ceilDiv_pos hr hk)
    rw [chunks_append hk hl, List.dropLast_cons_of_ne_nil hne, List.mem_cons] at h
    rcases h with rfl | h
    · exact hl
    · exact ih h

end Chunks

/-! ### Bits of codes -/

@[simp] theorem length_codeBits (c w : Nat) : (codeBits (c, w)).length = w := by
  simp [codeBits]

theorem codeBits_zero (c : Nat) : codeBits (c, 0) = [] := rfl

theorem codeBits_succ (c w : Nat) : codeBits (c, w + 1) = c.testBit 0 :: codeBits (c / 2, w) := by
  simp [codeBits, List.range_succ_eq_map, Nat.testBit_succ]

/-- A code placed above the pending bits follows them (rules R104, R173). -/
theorem codeBits_add {acc n : Nat} (h : acc < 2 ^ n) (c w : Nat) :
    codeBits (acc + c * 2 ^ n, n + w) = codeBits (acc, n) ++ codeBits (c, w) := by
  have hbit : ∀ k, (acc + c * 2 ^ n).testBit k = if k < n then acc.testBit k else c.testBit (k - n) := fun k => by
    rw [Nat.add_comm, Nat.mul_comm, Nat.testBit_two_pow_mul_add c h]
  rw [codeBits, codeBits, codeBits, List.range_add, List.map_append, List.map_map]
  congr 1
  · refine List.map_congr_left fun k hk => ?_
    rw [hbit, if_pos (List.mem_range.mp hk)]
  · refine List.map_congr_left fun k _ => ?_
    rw [Function.comp_apply, hbit, if_neg (by omega), Nat.add_sub_cancel_left]

/-- The pending bits are their low byte and the bits above it. -/
theorem codeBits_byte {nb : Nat} (h : 8 ≤ nb) (acc : Nat) :
    codeBits (acc, nb) = codeBits (acc % 256, 8) ++ codeBits (acc / 256, nb - 8) := by
  have hlow : acc % 256 < 2 ^ 8 := Nat.mod_lt acc (by decide)
  have hacc : acc % 256 + acc / 256 * 2 ^ 8 = acc := by omega
  rw [← codeBits_add hlow, hacc, Nat.add_sub_of_le h]

theorem bitsValue_codeBits {c w : Nat} (h : c < 2 ^ w) : bitsValue (codeBits (c, w)) = c := by
  induction w generalizing c with
  | zero =>
    rw [codeBits_zero]
    exact (Nat.lt_one_iff.mp h).symm
  | succ w ih =>
    rw [codeBits_succ, bitsValue, ih (by omega), Nat.testBit_zero]
    rcases Nat.mod_two_eq_zero_or_one c with hc | hc <;> simp [hc] <;> omega

/-! ### Bytes and sub-blocks -/

theorem packBits_eq (bits : List Bool) :
    packBits bits = (chunks 8 bits).map fun byte => BitVec.ofNat 8 (bitsValue byte) := by
  simp [packBits, chunks]

theorem subBlocks_eq (data : List Byte) : subBlocks data = (chunks 255 data).flatMap gifSubBlock ++ [0x00] := by
  rw [subBlocks, chunks, List.flatMap_map]

@[simp] theorem length_packBits (bits : List Bool) : (packBits bits).length = ceilDiv bits.length 8 := by
  simp [packBits]

theorem packBits_nil : packBits [] = [] := rfl

/-- Eight bits are one byte in front of the bytes of the rest. -/
theorem packBits_codeBits_append {c : Nat} (h : c < 256) (bits : List Bool) :
    packBits (codeBits (c, 8) ++ bits) = BitVec.ofNat 8 c :: packBits bits := by
  rw [packBits_eq, chunks_append (by decide) (length_codeBits c 8), List.map_cons, ← packBits_eq,
    bitsValue_codeBits (show c < 2 ^ 8 from h)]

/-- Bits that are left over are one byte, with zeros above them (rule R174). -/
theorem packBits_codeBits {c n : Nat} (h : c < 2 ^ n) (hpos : 0 < n) (hle : n ≤ 8) :
    packBits (codeBits (c, n)) = [BitVec.ofNat 8 c] := by
  rw [packBits_eq, chunks_of_short (by rwa [length_codeBits]) (by rwa [length_codeBits]), List.map_singleton,
    bitsValue_codeBits h]

theorem subBlocks_nil : subBlocks [] = [0x00] := rfl

theorem subBlocks_append {l : List Byte} (h : l.length = 255) (data : List Byte) :
    subBlocks (l ++ data) = gifSubBlock l ++ subBlocks data := by
  rw [subBlocks_eq, subBlocks_eq, chunks_append (by decide) h, List.flatMap_cons, List.append_assoc]

theorem subBlocks_of_short {l : List Byte} (hpos : 0 < l.length) (hle : l.length ≤ 255) :
    subBlocks l = gifSubBlock l ++ [0x00] := by
  rw [subBlocks_eq, chunks_of_short hpos hle, List.flatMap_singleton]

/-- A sub-block is a byte longer than its data, and the terminator is one byte (rule R176). -/
theorem length_subBlocks (data : List Byte) :
    (subBlocks data).length = data.length + ceilDiv data.length 255 + 1 := by
  have hsum : ∀ bs : List (List Byte), (bs.flatMap gifSubBlock).length = bs.flatten.length + bs.length := by
    intro bs
    induction bs with
    | nil => rfl
    | cons b bs ih =>
      simp only [List.flatMap_cons, List.length_append, ih, List.flatten_cons, List.length_cons, gifSubBlock]
      omega
  rw [subBlocks_eq, List.length_append, hsum, flatten_chunks (by decide), length_chunks]
  rfl

end Sys2Proof.Machine
end

section
/-! SUPPORT. What a procedure that appends to OUT gives in either case: the bytes when they fit, OutOverflow when they
do not; and what the packer's procedures append (spec file 44_bitstream_packer.md). -/

namespace Sys2Proof.Machine

open Reference (codeBits packBits subBlocks)

/-! ### Appending a known run of bytes -/

/-- The run from `s` appends `bs` when they fit OUT, and raises OutOverflow when they do not (rule R177). -/
structure Appends (s : State) (r : Except ErrCode State) (bs : List Byte) : Prop where
  fits : s.outLen.toNat + bs.length ≤ s.params.outCapacity → ∃ t, r = .ok t ∧ Emits s t bs
  overflows : s.params.outCapacity < s.outLen.toNat + bs.length → r = .error .outOverflow

theorem Emits.params {s t : State} {bs : List Byte} (h : Emits s t bs) : t.params = s.params := by
  rw [h.frame]

theorem Appends.emits {s t : State} {r : Except ErrCode State} {bs : List Byte} (h : Appends s r bs) (hr : r = .ok t) :
    Emits s t bs := by
  rcases Nat.lt_or_ge s.params.outCapacity (s.outLen.toNat + bs.length) with hlt | hle
  · exact nomatch hr.symm.trans (h.overflows hlt)
  · obtain ⟨t', ht', hemits⟩ := h.fits hle
    obtain rfl := Except.ok.inj (hr.symm.trans ht')
    exact hemits

/-- Runs one after the other append one behind the other. -/
theorem Appends.andThen {s : State} {r : Except ErrCode State} {f : State → Except ErrCode State} {bs cs : List Byte}
    (hs : OutFits s) (hr : Appends s r bs) (hf : ∀ t, r = .ok t → OutFits t → Appends t (f t) cs) :
    Appends s (andThen r f) (bs ++ cs) := by
  rcases Nat.lt_or_ge s.params.outCapacity (s.outLen.toNat + bs.length) with hlt | hle
  · rw [hr.overflows hlt]
    exact ⟨fun hfits => by rw [List.length_append] at hfits; omega, fun _ => rfl⟩
  · obtain ⟨t, ht, hemits⟩ := hr.fits hle
    have hrest := hf t ht (hemits.outFits hs)
    have hlen := hemits.outLen hs
    rw [ht, andThen_ok]
    refine ⟨fun hfits => ?_, fun hover => hrest.overflows ?_⟩
    · rw [List.length_append] at hfits
      obtain ⟨u, hu, hemits'⟩ := hrest.fits (by rw [hlen, hemits.params]; omega)
      exact ⟨u, hu, hemits.trans hs hemits'⟩
    · rw [List.length_append] at hover
      rw [hlen, hemits.params]
      omega

theorem appends_outBytes (bs : List Byte) (s : State) : Appends s (outBytes bs s) bs := by
  rw [outBytes_eq]
  exact ⟨fun h => ⟨_, if_pos h, h, rfl⟩, fun h => if_neg (by omega)⟩

theorem appends_outByte {s : State} (hs : OutFits s) (b : Byte) : Appends s (outByte b s) [b] := by
  rw [outByte_eq_outBytes hs]
  exact appends_outBytes [b] s

/-- A change of the encoder's and the packer's registers in front of a run appends nothing. -/
theorem Appends.after_regs {s : State} {l : LzwRegs} {p : PackRegs} {r : Except ErrCode State} {bs : List Byte}
    (hs : OutFits s) (h : Appends { s with lzw := l, pack := p } r bs) : Appends s r bs where
  fits hle := by
    obtain ⟨t, ht, hemits⟩ := h.fits hle
    exact ⟨t, ht, (Emits.regs hs l p).trans hs hemits⟩
  overflows := h.overflows

theorem Appends.regs {s : State} (hs : OutFits s) (l : LzwRegs) (p : PackRegs) :
    Appends s (.ok { s with lzw := l, pack := p }) [] where
  fits _ := ⟨_, rfl, Emits.regs hs l p⟩
  overflows h := by
    have hlen := hs.len
    simp only [List.length_nil] at h
    omega

/-! ### Runs of the packer -/

/-- A run of the packer from `s`: it keeps the encoder's registers, leaves `p` in its own, raises no error but
OutOverflow, and appends `bs`. The registers are so in every state, the bytes when OUT_LEN is inside OUT. -/
structure Packs (s : State) (r : Except ErrCode State) (bs : List Byte) (p : PackRegs) : Prop where
  regs : ∀ t, r = .ok t → t.lzw = s.lzw ∧ t.pack = p
  error : ∀ e, r = .error e → e = .outOverflow
  appends : OutFits s → Appends s r bs

theorem Packs.andThen {s : State} {r : Except ErrCode State} {f : State → Except ErrCode State} {bs cs : List Byte}
    {p q : PackRegs} (hr : Packs s r bs p) (hf : ∀ t, t.pack = p → Packs t (f t) cs q) :
    Packs s (andThen r f) (bs ++ cs) q where
  regs u hu := by
    obtain ⟨t, ht, hfu⟩ := andThen_eq_ok.mp hu
    obtain ⟨hlzw, hpack⟩ := hr.regs t ht
    obtain ⟨hlzw', hpack'⟩ := (hf t hpack).regs u hfu
    exact ⟨hlzw'.trans hlzw, hpack'⟩
  error e he := by
    rcases andThen_eq_error.mp he with he | ⟨t, ht, he⟩
    · exact hr.error e he
    · exact (hf t (hr.regs t ht).2).error e he
  appends hs := (hr.appends hs).andThen hs fun t ht ht' => (hf t (hr.regs t ht).2).appends ht'

theorem Packs.ok (s : State) (p : PackRegs) : Packs s (.ok { s with pack := p }) [] p where
  regs := by
    rintro _ ⟨⟩
    exact ⟨rfl, rfl⟩
  error := nofun
  appends hs := Appends.regs hs s.lzw p

/-- A change of the packer's registers in front of a run appends nothing. -/
theorem Packs.after {s : State} {p q : PackRegs} {r : Except ErrCode State} {bs : List Byte}
    (h : Packs { s with pack := p } r bs q) : Packs s r bs q where
  regs := h.regs
  error := h.error
  appends hs := (h.appends ⟨hs.size, hs.len⟩).after_regs hs

theorem packs_outBytes (bs : List Byte) (s : State) : Packs s (outBytes bs s) bs s.pack where
  regs t ht := by
    rw [(outBytes_ok ht).1]
    exact ⟨rfl, rfl⟩
  error _ he := (outBytes_error he).1
  appends _ := appends_outBytes bs s

theorem packs_outByte (b : Byte) (s : State) : Packs s (outByte b s) [b] s.pack where
  regs t ht := by
    rw [outByte] at ht
    split at ht <;> cases ht
    exact ⟨rfl, rfl⟩
  error e he := by
    rw [outByte] at he
    split at he <;> cases he
    rfl
  appends hs := appends_outByte hs b

/-! ### The procedures of the packer -/

theorem packs_outBlk (s : State) : Packs s (outBlk s) (gifSubBlock s.pack.blk) { s.pack with blk := [] } := by
  have h := (packs_outBytes (gifSubBlock s.pack.blk) s).andThen (f := fun t => .ok (t.setBlk [])) (cs := [])
    (q := { s.pack with blk := [] }) fun t ht => by
      rw [← ht]
      exact Packs.ok t { t.pack with blk := [] }
  rwa [List.append_nil] at h

/-- The bytes that are still to come when `bits` follow and the stream is flushed: those in the buffer, then those of
the pending bits and of `bits`, in sub-blocks (rules R174 to R176). -/
def PackRegs.rest (p : PackRegs) (bits : List Bool) : List Byte :=
  subBlocks (p.blk ++ packBits (codeBits (p.acc, p.nb) ++ bits))

/-- A byte joins the buffer; the 255th empties it into OUT (rule R172). -/
theorem putBlkByte_packs (b : Byte) (p : PackRegs) :
    ∃ bs blk, (∀ s, s.pack = p → Packs s (putBlkByte b s) bs { p with blk := blk }) ∧
      (p.bl ≤ 254 → blk.length ≤ 254) ∧ ∀ data, subBlocks (p.blk ++ b :: data) = bs ++ subBlocks (blk ++ data) := by
  have hlen : (p.blk ++ [b]).length = p.bl + 1 := List.length_append
  by_cases hfull : (p.blk ++ [b]).length = 255
  · refine ⟨gifSubBlock (p.blk ++ [b]), [], ?_, fun _ => Nat.zero_le _, fun data => ?_⟩
    · rintro s rfl
      have hput : putBlkByte b s = outBlk (s.setBlk (s.pack.blk ++ [b])) := if_pos hfull
      rw [hput]
      exact Packs.after (packs_outBlk (s.setBlk (s.pack.blk ++ [b])))
    · rw [← subBlocks_append hfull, List.append_assoc]
      rfl
  · refine ⟨[], p.blk ++ [b], ?_, by omega, fun data => ?_⟩
    · rintro s rfl
      have hput : putBlkByte b s = .ok (s.setBlk (s.pack.blk ++ [b])) := if_neg hfull
      rw [hput]
      exact Packs.ok s { s.pack with blk := s.pack.blk ++ [b] }
    · rw [List.nil_append, List.append_assoc]
      rfl

/-- The loop of rule R173 leaves at most 7 bits pending, and what it appends is the front of what is to come. -/
theorem drainBytes_packs (passes : Nat) (p : PackRegs) :
    ∃ bs q, (∀ s, s.pack = p → Packs s (drainBytes passes s) bs q) ∧
      (p.acc < 2 ^ p.nb → p.bl ≤ 254 → p.nb ≤ 8 * passes + 7 →
        PackInv q ∧ ∀ bits, p.rest bits = bs ++ q.rest bits) := by
  induction passes generalizing p with
  | zero =>
    exact ⟨[], p, fun s hs => hs ▸ Packs.ok s s.pack, fun hacc hbl hnb => ⟨⟨by omega, hacc, hbl⟩, fun _ => rfl⟩⟩
  | succ passes ih =>
    by_cases hnb : 8 ≤ p.nb
    · obtain ⟨bs, blk, hput, hblk, hdata⟩ := putBlkByte_packs (BitVec.ofNat 8 (p.acc % 256)) p
      obtain ⟨cs, q, hloop, hrest⟩ := ih { acc := p.acc / 256, nb := p.nb - 8, blk := blk }
      refine ⟨bs ++ cs, q, ?_, fun hacc hbl hpasses => ?_⟩
      · rintro s rfl
        rw [drainBytes, if_pos hnb]
        refine (hput s rfl).andThen fun t ht => ?_
        have hpack : (t.setBits (t.pack.acc / 256) (t.pack.nb - 8)).pack =
            { acc := s.pack.acc / 256, nb := s.pack.nb - 8, blk := blk } := by
          rw [setBits_pack, ht]
        exact Packs.after (hloop (t.setBits _ _) hpack)
      · have hshift : p.acc / 256 < 2 ^ (p.nb - 8) := by
          refine Nat.div_lt_of_lt_mul ?_
          rw [show 256 = 2 ^ 8 from rfl, ← pow_add, Nat.add_sub_of_le hnb]
          exact hacc
        obtain ⟨hq, hbits⟩ := hrest hshift (hblk hbl) (show p.nb - 8 ≤ 8 * passes + 7 by omega)
        refine ⟨hq, fun bits => ?_⟩
        rw [List.append_assoc, ← hbits bits, PackRegs.rest, PackRegs.rest, codeBits_byte hnb, List.append_assoc,
          packBits_codeBits_append (Nat.mod_lt _ (by decide)), hdata]
    · refine ⟨[], p, ?_, fun hacc hbl _ => ⟨⟨by omega, hacc, hbl⟩, fun _ => rfl⟩⟩
      rintro s rfl
      rw [drainBytes, if_neg hnb]
      exact Packs.ok s s.pack

/-- PutCode keeps the packer's invariant, and what it appends is the front of what is to come with the code's bits
(rules R170, R173). -/
theorem putCode_packs (c w : Nat) (p : PackRegs) :
    ∃ bs q, (∀ s, s.pack = p → Packs s (putCode c w s) bs q) ∧
      (c < 2 ^ w → PackInv p → PackInv q ∧ ∀ bits, p.rest (codeBits (c, w) ++ bits) = bs ++ q.rest bits) := by
  obtain ⟨bs, q, hloop, hrest⟩ :=
    drainBytes_packs (p.nb + w) { acc := p.acc + c * 2 ^ p.nb, nb := p.nb + w, blk := p.blk }
  refine ⟨bs, q, ?_, fun hc hp => ?_⟩
  · rintro s rfl
    exact Packs.after (hloop (s.setBits _ _) rfl)
  · have hacc : p.acc + c * 2 ^ p.nb < 2 ^ (p.nb + w) := by
      have hp' := hp.acc
      have hmul : (c + 1) * 2 ^ p.nb ≤ 2 ^ w * 2 ^ p.nb := Nat.mul_le_mul_right _ hc
      rw [Nat.add_comm p.nb w, pow_add]
      rw [Nat.add_mul] at hmul
      omega
    obtain ⟨hq, hbits⟩ := hrest hacc hp.bl (show p.nb + w ≤ 8 * (p.nb + w) + 7 by omega)
    refine ⟨hq, fun bits => ?_⟩
    rw [← hbits bits, PackRegs.rest, PackRegs.rest, codeBits_add hp.acc, List.append_assoc]

/-- PutCode leaves the encoder's registers alone, in every state. -/
theorem putCode_lzw {c w : Nat} {s t : State} (h : putCode c w s = .ok t) : t.lzw = s.lzw := by
  obtain ⟨bs, q, hpacks, -⟩ := putCode_packs c w s.pack
  exact ((hpacks s rfl).regs t h).1

/-- PutCode raises no error but OutOverflow, in every state. -/
theorem putCode_error {c w : Nat} {s : State} {e : ErrCode} (h : putCode c w s = .error e) : e = .outOverflow := by
  obtain ⟨bs, q, hpacks, -⟩ := putCode_packs c w s.pack
  exact (hpacks s rfl).error e h

/-- The first part of Flush turns the pending bits into a byte (rule R174). -/
theorem flushBits_packs {p : PackRegs} (hp : PackInv p) :
    ∃ bs blk, (∀ s, s.pack = p → Packs s (flushBits s) bs { acc := 0, nb := 0, blk := blk }) ∧ blk.length ≤ 254 ∧
      p.rest [] = bs ++ subBlocks blk := by
  by_cases hnb : 0 < p.nb
  · obtain ⟨bs, blk, hput, hblk, hdata⟩ := putBlkByte_packs (BitVec.ofNat 8 p.acc) p
    refine ⟨bs ++ [], blk, ?_, hblk hp.bl, ?_⟩
    · rintro s rfl
      rw [flushBits, if_pos hnb]
      refine (hput s rfl).andThen fun t ht => ?_
      have hset : t.setBits 0 0 = { t with pack := { acc := 0, nb := 0, blk := blk } } := by
        rw [State.setBits, ht]
      rw [hset]
      exact Packs.ok t _
    · have hbyte := hdata []
      rw [List.append_nil] at hbyte
      rw [PackRegs.rest, List.append_nil, packBits_codeBits hp.acc hnb (hp.nb.trans (by decide)), hbyte, List.append_nil]
  · have hzero : p.nb = 0 := Nat.eq_zero_of_not_pos hnb
    have hacc : p.acc = 0 := by simpa [hzero] using hp.acc
    have hregs : { acc := 0, nb := 0, blk := p.blk } = p := by
      cases p
      simp_all
    refine ⟨[], p.blk, ?_, hp.bl, ?_⟩
    · rintro s rfl
      rw [flushBits, if_neg hnb, hregs]
      exact Packs.ok s s.pack
    · rw [PackRegs.rest, hzero, codeBits_zero, List.nil_append, packBits_nil, List.append_nil, List.nil_append]

/-- The second part of Flush writes the last sub-block and the terminator (rules R175, R176). -/
theorem flushBlk_packs {blk : List Byte} (hblk : blk.length ≤ 254) {s : State}
    (hs : s.pack = { acc := 0, nb := 0, blk := blk }) :
    Packs s (andThen (flushBlk s) (outByte 0)) (subBlocks blk) { acc := 0, nb := 0, blk := [] } := by
  have hend : ∀ t : State, t.pack = { acc := 0, nb := 0, blk := [] } →
      Packs t (outByte 0 t) [0x00] { acc := 0, nb := 0, blk := [] } := fun t ht => ht ▸ packs_outByte 0 t
  have hbl : s.pack.blk = blk := by rw [hs]
  by_cases hpos : 0 < blk.length
  · have hflush : flushBlk s = outBlk s := if_pos (by rwa [PackRegs.bl, hbl])
    have hout := packs_outBlk s
    rw [hs] at hout
    rw [hflush, subBlocks_of_short hpos (by omega)]
    exact hout.andThen hend
  · have hnil : blk = [] := List.length_eq_zero_iff.mp (by omega)
    have hflush : flushBlk s = .ok s := if_neg (by rwa [PackRegs.bl, hbl])
    rw [hflush, andThen_ok, hnil, subBlocks_nil]
    exact hend s (hnil ▸ hs)

/-- Flush appends all that is still to come, and leaves nothing pending (rules R170, R174, R175). -/
theorem packs_flush {s : State} (hp : PackInv s.pack) :
    Packs s (flush s) (s.pack.rest []) { acc := 0, nb := 0, blk := [] } := by
  obtain ⟨bs, blk, hbits, hblk, hrest⟩ := flushBits_packs hp
  rw [flush, andThen_assoc, hrest]
  exact (hbits s rfl).andThen fun t ht => flushBlk_packs hblk ht

end Sys2Proof.Machine
end

section
/-! The obligations on OutByte and on the packer. -/

namespace Sys2Proof.Machine

/-- Settles O50: a full OUT is an error, and otherwise one byte is written at OUT_LEN. -/
theorem outByteAppends : Obligations.OutByteAppends := by
  unfold Obligations.OutByteAppends
  refine fun b s => ⟨fun hfull => if_pos hfull, fun hroom => ?_⟩
  have hbyte : ∀ x, (s.setBytes .out s.outLen.toNat [b]).byte .out x =
      if s.outLen.toNat ≤ x ∧ x < s.outLen.toNat + 1 then [b][x - s.outLen.toNat]?.getD 0 else s.byte .out x :=
    fun x => byte_setBytes s .out _ x [b]
  refine ⟨_, if_neg hroom, ?_, rfl, fun x hx => ?_, rfl⟩
  · exact (hbyte _).trans (by simp)
  · exact (hbyte x).trans (if_neg (by omega))

/-- Settles O51: PackInit clears the registers, and PutCode and Flush leave what their lemmas say. -/
theorem packerInvariant : Obligations.PackerInvariant := by
  unfold Obligations.PackerInvariant
  refine ⟨fun s => ⟨Nat.zero_le _, Nat.one_pos, Nat.zero_le _⟩, fun c w s t hp hc _ hput => ?_, fun s t hp hflush => ?_⟩
  · obtain ⟨bs, q, hpacks, hq⟩ := putCode_packs c w s.pack
    rw [((hpacks s rfl).regs t hput).2]
    exact (hq hc hp).1
  · rw [((packs_flush hp).regs t hflush).2]
    exact ⟨rfl, rfl, rfl⟩

end Sys2Proof.Machine
end

section
/-! SUPPORT. The encoder's registers through one pass of its loop, and the codes that follow from them (rules R152 to
R161). Every claim about a stream is an induction over the passes, `encoder_induction`. -/

namespace Sys2Proof.Machine

open Reference (Code)

/-! ### The registers after a pass -/

/-- The registers after an insertion, the pass's symbol matched (rules R155, R156). -/
def LzwRegs.insert (sym : Byte) (r : LzwRegs) : LzwRegs :=
  { r with
    dict := ⟨r.pre, sym, r.next⟩ :: r.dict
    w := if r.next = 2 ^ r.w ∧ r.w < 12 then r.w + 1 else r.w
    next := r.next + 1
    pre := sym.toNat }

/-- The registers after a clear code, the pass's symbol matched (rules R155, R157). -/
def LzwRegs.restart (sym : Byte) (r : LzwRegs) : LzwRegs :=
  { r with dict := [], w := r.m + 1, next := r.endCode + 1, pre := sym.toNat }

/-- The registers after the opening clear code, for minimum code size `m` (rules R152 to R154). -/
def LzwRegs.opening (m pre : Nat) : LzwRegs :=
  { m := m, clear := 2 ^ m, endCode := 2 ^ m + 1, w := m + 1, next := 2 ^ m + 2, pre := pre, dict := [] }

theorem mem_of_dictFind {pre : Nat} {sym : Byte} {dict : List DictEntry} {code : Nat}
    (h : dictFind pre sym dict = some code) : ⟨pre, sym, code⟩ ∈ dict := by
  induction dict with
  | nil => cases h
  | cons e es ih =>
    rw [dictFind] at h
    split at h
    · next he =>
      obtain ⟨rfl, rfl⟩ := he
      cases h
      exact List.mem_cons_self
    · exact List.mem_cons_of_mem _ (ih h)

/-- A symbol is a code below the clear code. -/
theorem EncInv.withSymbol {r : LzwRegs} {sym : Byte} (hsym : sym.toNat < r.clear) (hend : r.endCode = r.clear + 1)
    (hnext : r.endCode + 1 ≤ r.next) :
    sym.toNat < r.next ∧ sym.toNat ≠ r.clear ∧ sym.toNat ≠ r.endCode := by
  omega

theorem EncInv.withCode {r : LzwRegs} (h : EncInv r) {sym : Byte} {code : Nat}
    (hfind : dictFind r.pre sym r.dict = some code) : EncInv { r with pre := code } := by
  obtain ⟨hlow, hhigh⟩ := h.dict _ (mem_of_dictFind hfind)
  have hend := h.endCode
  exact { h with pre := ⟨hhigh, by dsimp only at *; omega, by dsimp only at *; omega⟩ }

theorem EncInv.insert {r : LzwRegs} (h : EncInv r) {sym : Byte} (hsym : sym.toNat < r.clear) (hnext : r.next < 4096) :
    EncInv (r.insert sym) where
  m := h.m
  clear := h.clear
  endCode := h.endCode
  next := ⟨h.next.1.trans (Nat.le_succ _), hnext⟩
  w := by
    have hw := h.w
    simp only [LzwRegs.insert]
    split <;> omega
  width := by
    have hw := h.w
    have hwidth := h.width
    simp only [LzwRegs.insert]
    split
    · next hgrow =>
      have hpos : 0 < 2 ^ r.w := Nat.two_pow_pos r.w
      rw [pow_succ]
      omega
    · next hkeep =>
      rcases Nat.lt_or_ge r.w 12 with hlt | hge
      · omega
      · have htwelve : r.w = 12 := by omega
        rw [htwelve]
        exact hnext
  dict e he := by
    have hlow := h.next.1
    rcases List.mem_cons.mp he with rfl | he
    · exact ⟨hlow, Nat.lt_succ_self _⟩
    · exact ⟨(h.dict e he).1, (h.dict e he).2.trans (Nat.lt_succ_self _)⟩
  pre := EncInv.withSymbol (r := { r with next := r.next + 1 }) hsym h.endCode (h.next.1.trans (Nat.le_succ _))

theorem encInv_opening {m pre : Nat} (hlow : 2 ≤ m) (hhigh : m ≤ 8) (hpre : pre < 2 ^ m) :
    EncInv (LzwRegs.opening m pre) := by
  have hfour : 2 ^ 2 ≤ 2 ^ m := Nat.pow_le_pow_right (by decide) hlow
  have hmax : 2 ^ m ≤ 2 ^ 8 := Nat.pow_le_pow_right (by decide) hhigh
  have hwidth : 2 ^ m + 2 ≤ 2 ^ (m + 1) := by rw [pow_succ]; omega
  refine ⟨⟨hlow, hhigh⟩, rfl, rfl, ⟨le_rfl, ?_⟩, ⟨le_rfl, ?_⟩, hwidth, nofun, ?_, ?_, ?_⟩ <;>
    simp only [LzwRegs.opening] <;> omega

theorem LzwRegs.restart_eq_opening {r : LzwRegs} (hclear : r.clear = 2 ^ r.m) (hend : r.endCode = r.clear + 1)
    (sym : Byte) : r.restart sym = LzwRegs.opening r.m sym.toNat := by
  rw [restart, opening, hend, hclear]

theorem EncInv.restart {r : LzwRegs} (h : EncInv r) {sym : Byte} (hsym : sym.toNat < r.clear) :
    EncInv (r.restart sym) := by
  rw [LzwRegs.restart_eq_opening h.clear h.endCode]
  exact encInv_opening h.m.1 h.m.2 (h.clear ▸ hsym)

/-- Induction over the passes of the encoder: the symbol extends the match, or it does not and the dictionary grows, or
the dictionary is full and starts again. -/
theorem encoder_induction {P : List Byte → LzwRegs → Prop} (hnil : ∀ r, EncInv r → P [] r)
    (hmatch : ∀ sym syms r code, EncInv r → sym.toNat < r.clear → dictFind r.pre sym r.dict = some code →
      P syms { r with pre := code } → P (sym :: syms) r)
    (hinsert : ∀ sym syms r, EncInv r → sym.toNat < r.clear → dictFind r.pre sym r.dict = none → r.next < 4096 →
      P syms (r.insert sym) → P (sym :: syms) r)
    (hrestart : ∀ sym syms r, EncInv r → sym.toNat < r.clear → dictFind r.pre sym r.dict = none → r.next = 4096 →
      P syms (r.restart sym) → P (sym :: syms) r)
    (syms : List Byte) {r : LzwRegs} (h : EncInv r) (hsyms : ∀ x ∈ syms, x.toNat < r.clear) : P syms r := by
  induction syms generalizing r with
  | nil => exact hnil r h
  | cons sym syms ih =>
    obtain ⟨hsym, hrest⟩ := List.forall_mem_cons.mp hsyms
    cases hfind : dictFind r.pre sym r.dict with
    | some code => exact hmatch sym syms r code h hsym hfind (ih (h.withCode hfind) hrest)
    | none =>
      rcases Nat.lt_or_ge r.next 4096 with hlt | hge
      · exact hinsert sym syms r h hsym hfind hlt (ih (h.insert hsym hlt) hrest)
      · exact hrestart sym syms r h hsym hfind (le_antisymm h.next.2 hge) (ih (h.restart hsym) hrest)

/-! ### The codes from the registers -/

/-- The codes that are still to come when the symbols follow (rules R155 to R158). -/
def LzwRegs.codes (r : LzwRegs) (syms : List Byte) : List Code :=
  Reference.codesFrom r.m syms r.pre r.next r.w r.dict

theorem codes_nil (m : Nat) : Reference.codes m [] = [(2 ^ m, m + 1), (2 ^ m + 1, m + 1)] := rfl

theorem codes_cons (m : Nat) (sym : Byte) (syms : List Byte) :
    Reference.codes m (sym :: syms) = (2 ^ m, m + 1) :: (LzwRegs.opening m sym.toNat).codes syms := rfl

theorem EncInv.codes_nil {r : LzwRegs} (h : EncInv r) : r.codes [] = [(r.pre, r.w), (r.endCode, r.w)] := by
  rw [h.endCode, h.clear]
  rfl

theorem LzwRegs.codes_of_match {r : LzwRegs} {sym : Byte} {code : Nat} (h : dictFind r.pre sym r.dict = some code)
    (syms : List Byte) : r.codes (sym :: syms) = LzwRegs.codes { r with pre := code } syms := by
  rw [codes, Reference.codesFrom, h, codes]

theorem LzwRegs.codes_of_insert {r : LzwRegs} {sym : Byte} (h : dictFind r.pre sym r.dict = none)
    (hnext : r.next < 4096) (syms : List Byte) :
    r.codes (sym :: syms) = (r.pre, r.w) :: (r.insert sym).codes syms := by
  rw [codes, Reference.codesFrom, h]
  exact if_pos hnext

theorem EncInv.codes_of_restart {r : LzwRegs} (hr : EncInv r) {sym : Byte} (h : dictFind r.pre sym r.dict = none)
    (hnext : r.next = 4096) (syms : List Byte) :
    r.codes (sym :: syms) = (r.pre, r.w) :: (r.clear, r.w) :: (r.restart sym).codes syms := by
  rw [LzwRegs.restart_eq_opening hr.clear hr.endCode, LzwRegs.codes, Reference.codesFrom, h, hr.clear]
  exact if_neg (by omega)

/-! ### Widths and number of the codes -/

theorem EncInv.pre_lt {r : LzwRegs} (h : EncInv r) : r.pre < 2 ^ r.w := h.pre.1.trans_le h.width

theorem EncInv.clear_lt {r : LzwRegs} (h : EncInv r) : r.clear < 2 ^ r.w := by
  have hend := h.endCode
  have hnext := h.next.1
  have hwidth := h.width
  omega

theorem EncInv.endCode_lt {r : LzwRegs} (h : EncInv r) : r.endCode < 2 ^ r.w := h.next.1.trans h.width

/-- Rule R161: a code fits its width, which is one of `m + 1` to 12 bits. -/
def Fits (m : Nat) (code : Code) : Prop := code.1 < 2 ^ code.2 ∧ m + 1 ≤ code.2 ∧ code.2 ≤ 12

theorem codes_fit (syms : List Byte) {r : LzwRegs} (h : EncInv r) (hsyms : ∀ x ∈ syms, x.toNat < r.clear) :
    ∀ code ∈ r.codes syms, Fits r.m code := by
  refine encoder_induction (P := fun syms r => ∀ code ∈ r.codes syms, Fits r.m code) ?nil ?extend ?insert ?restart
    syms h hsyms
  case nil =>
    intro r h
    rw [h.codes_nil]
    simp only [List.forall_mem_cons]
    exact ⟨⟨h.pre_lt, h.w⟩, ⟨h.endCode_lt, h.w⟩, nofun⟩
  case extend =>
    intro sym syms r code h _ hfind ih
    rwa [LzwRegs.codes_of_match hfind]
  case insert =>
    intro sym syms r h hsym hfind hnext ih
    rw [LzwRegs.codes_of_insert hfind hnext, List.forall_mem_cons]
    exact ⟨⟨h.pre_lt, h.w⟩, ih⟩
  case restart =>
    intro sym syms r h hsym hfind hnext ih
    rw [h.codes_of_restart hfind hnext]
    simp only [List.forall_mem_cons]
    exact ⟨⟨h.pre_lt, h.w⟩, ⟨h.clear_lt, h.w⟩, ih⟩

/-- A code for each symbol at most, the last two, and a clear code after each 3839 symbols at most: the dictionary of
depth 8 takes 3838 entries (rule R276). -/
theorem length_codes_le (syms : List Byte) {r : LzwRegs} (h : EncInv r) (hsyms : ∀ x ∈ syms, x.toNat < r.clear)
    (hm : r.m = 8) : (r.codes syms).length ≤ syms.length + 2 + (syms.length + (r.next - 258)) / 3839 := by
  refine encoder_induction
    (P := fun syms r => r.m = 8 → (r.codes syms).length ≤ syms.length + 2 + (syms.length + (r.next - 258)) / 3839)
    ?nil ?extend ?insert ?restart syms h hsyms hm
  case nil =>
    intro r h _
    rw [h.codes_nil]
    exact Nat.le_add_right 2 _
  case extend =>
    intro sym syms r code h _ hfind ih hm
    have hrest := ih hm
    rw [LzwRegs.codes_of_match hfind, List.length_cons]
    dsimp only at hrest
    omega
  case insert =>
    intro sym syms r h hsym hfind hnext ih hm
    have hrest := ih hm
    have hlow := h.next.1
    rw [h.endCode, h.clear, hm] at hlow
    rw [show (r.insert sym).next = r.next + 1 from rfl] at hrest
    rw [LzwRegs.codes_of_insert hfind hnext, List.length_cons, List.length_cons]
    omega
  case restart =>
    intro sym syms r h hsym hfind hnext ih hm
    have hrest := ih hm
    rw [show (r.restart sym).next = r.endCode + 1 from rfl, h.endCode, h.clear, hm] at hrest
    rw [h.codes_of_restart hfind hnext, List.length_cons, List.length_cons, List.length_cons, hnext]
    omega

end Sys2Proof.Machine
end

section
/-! The obligations on the codes of a stream and on its length. -/

namespace Sys2Proof.Machine

open Reference (codeBits)

/-- Settles O53: the opening clear code fits, and the other codes do by induction over the encoder's passes. -/
theorem codesFitTheirWidth : Obligations.CodesFitTheirWidth := by
  unfold Obligations.CodesFitTheirWidth
  intro m syms hlow hhigh hsyms
  have hpow : 2 ^ 2 ≤ 2 ^ m := Nat.pow_le_pow_right (by decide) hlow
  have hclear : Fits m (2 ^ m, m + 1) := ⟨Nat.pow_lt_pow_succ (by decide), le_rfl, by dsimp only; omega⟩
  cases syms with
  | nil =>
    rw [codes_nil]
    simp only [List.forall_mem_cons]
    refine ⟨hclear, ⟨?_, le_rfl, by omega⟩, nofun⟩
    rw [pow_succ]
    omega
  | cons sym syms =>
    obtain ⟨hsym, hrest⟩ := List.forall_mem_cons.mp hsyms
    rw [codes_cons, List.forall_mem_cons]
    exact ⟨hclear, codes_fit syms (encInv_opening hlow hhigh hsym) hrest⟩

theorem length_flatMap_codeBits_le {cs : List Reference.Code} {n : Nat} (h : ∀ c ∈ cs, c.2 ≤ n) :
    (cs.flatMap codeBits).length ≤ n * cs.length := by
  induction cs with
  | nil => exact Nat.zero_le _
  | cons c cs ih =>
    obtain ⟨hc, hcs⟩ := List.forall_mem_cons.mp h
    rw [List.flatMap_cons, List.length_append, List.length_cons, Nat.mul_succ, Nat.add_comm]
    exact Nat.add_le_add (ih hcs) ((length_codeBits c.1 c.2).trans_le hc)

theorem le_mul_ceilDiv (a : Nat) {b : Nat} (hb : 0 < b) : a ≤ b * ceilDiv a b := (ceilDiv_le_iff hb).mp le_rfl

theorem ceilDiv_mono {a c b : Nat} (hb : 0 < b) (h : a ≤ c) : ceilDiv a b ≤ ceilDiv c b :=
  (ceilDiv_le_iff hb).mpr (h.trans (le_mul_ceilDiv c hb))

theorem length_stream (depth : Nat) (syms : List Byte) :
    (Reference.stream depth syms).length =
      2 + ceilDiv ((Reference.codes (minCodeSize depth) syms).flatMap codeBits).length 8 +
        ceilDiv (ceilDiv ((Reference.codes (minCodeSize depth) syms).flatMap codeBits).length 8) 255 := by
  rw [Reference.stream, List.length_cons, length_subBlocks, length_packBits]
  omega

/-- Settles O56: there are at most `n + 2 + (n - 1) / 3839` codes of at most 12 bits each. -/
theorem streamLengthBound : Obligations.StreamLengthBound := by
  unfold Obligations.StreamLengthBound
  intro syms hne
  have hfit := codesFitTheirWidth 8 syms (by decide) (by decide) fun x _ => x.isLt
  have hbits : ((Reference.codes 8 syms).flatMap codeBits).length ≤ 12 * (Reference.codes 8 syms).length :=
    length_flatMap_codeBits_le fun c hc => (hfit c hc).2.2
  have hcount : (Reference.codes 8 syms).length ≤ syms.length + 2 + (syms.length - 1) / 3839 := by
    cases syms with
    | nil => exact absurd rfl hne
    | cons sym syms =>
      have h := length_codes_le syms (encInv_opening (m := 8) (by decide) (by decide) sym.isLt) (fun x _ => x.isLt) rfl
      rw [codes_cons, List.length_cons, List.length_cons, Nat.add_sub_cancel]
      rw [show (LzwRegs.opening 8 sym.toNat).next = 258 from rfl] at h
      omega
  have hdata : ceilDiv ((Reference.codes 8 syms).flatMap codeBits).length 8 ≤
      ceilDiv (3 * (syms.length + 2 + (syms.length - 1) / 3839)) 2 := by
    have hceil := le_mul_ceilDiv (3 * (syms.length + 2 + (syms.length - 1) / 3839)) (b := 2) (by decide)
    rw [ceilDiv_le_iff (by decide)]
    omega
  rw [length_stream]
  exact Nat.add_le_add (Nat.add_le_add_left hdata 2) (ceilDiv_mono (by decide) hdata)

end Sys2Proof.Machine
end

section
/-! SUPPORT. The procedure LzwStream on the state: what one pass does to the registers, the errors it can raise, and the
bytes it appends (spec file 43_lzw_encoder.md). -/

namespace Sys2Proof.Machine

open Reference (codeBits)

/-! ### One pass -/

theorem lzwPass_of_bad {sym : Byte} {s : State} (h : s.lzw.clear ≤ sym.toNat) :
    lzwPass sym s = .error .encodingFailure :=
  if_pos h

theorem lzwPass_of_match {sym : Byte} {s : State} {code : Nat} (hsym : sym.toNat < s.lzw.clear)
    (hfind : dictFind s.lzw.pre sym s.lzw.dict = some code) : lzwPass sym s = .ok (s.setPre code) := by
  rw [lzwPass, if_neg (Nat.not_le.mpr hsym), hfind]

/-- A pass that inserts a string is the code of the match and the insertion (rules R155, R156). -/
theorem lzwPass_of_insert {sym : Byte} {s : State} (hsym : sym.toNat < s.lzw.clear)
    (hfind : dictFind s.lzw.pre sym s.lzw.dict = none) (hnext : s.lzw.next < 4096) :
    lzwPass sym s =
      andThen (putCode s.lzw.pre s.lzw.w s) fun t => .ok { t with lzw := s.lzw.insert sym } := by
  rw [lzwPass, if_neg (Nat.not_le.mpr hsym), hfind]
  cases hput : putCode s.lzw.pre s.lzw.w s with
  | error e => rfl
  | ok t =>
    have hgrow : growDict sym t = .ok (insertString sym t) := if_pos (by rwa [putCode_lzw hput])
    rw [andThen_ok, hgrow, andThen_ok, andThen_ok, ← putCode_lzw hput]
    rfl

/-- A pass that finds the dictionary full is the code of the match and a clear code (rules R155, R157). -/
theorem lzwPass_of_restart {sym : Byte} {s : State} (hsym : sym.toNat < s.lzw.clear)
    (hfind : dictFind s.lzw.pre sym s.lzw.dict = none) (hnext : s.lzw.next = 4096) :
    lzwPass sym s =
      andThen (putCode s.lzw.pre s.lzw.w s) fun t =>
        andThen (putCode s.lzw.clear s.lzw.w t) fun u => .ok { u with lzw := s.lzw.restart sym } := by
  rw [lzwPass, if_neg (Nat.not_le.mpr hsym), hfind]
  cases hput : putCode s.lzw.pre s.lzw.w s with
  | error e => rfl
  | ok t =>
    have hlzw := putCode_lzw hput
    have hgrow : growDict sym t = andThen (putCode s.lzw.clear s.lzw.w t) fun u => .ok (resetDict u) := by
      rw [growDict, if_neg (by rw [hlzw]; omega), hlzw]
    rw [andThen_ok, hgrow, andThen_ok]
    cases hclear : putCode s.lzw.clear s.lzw.w t with
    | error e => rfl
    | ok u =>
      rw [andThen_ok, andThen_ok, andThen_ok, ← (putCode_lzw hclear).trans hlzw]
      rfl

/-- Everything a pass can do to the encoder's registers. -/
theorem lzwPass_lzw_cases {sym : Byte} {s t : State} (hfull : s.lzw.next ≤ 4096) (h : lzwPass sym s = .ok t) :
    sym.toNat < s.lzw.clear ∧
      ((∃ code, dictFind s.lzw.pre sym s.lzw.dict = some code ∧ t.lzw = { s.lzw with pre := code }) ∨
        (s.lzw.next < 4096 ∧ t.lzw = s.lzw.insert sym) ∨ t.lzw = s.lzw.restart sym) := by
  rcases Nat.lt_or_ge sym.toNat s.lzw.clear with hsym | hbad
  · refine ⟨hsym, ?_⟩
    cases hfind : dictFind s.lzw.pre sym s.lzw.dict with
    | some code =>
      rw [lzwPass_of_match hsym hfind] at h
      cases h
      exact .inl ⟨code, rfl, rfl⟩
    | none =>
      rcases Nat.lt_or_ge s.lzw.next 4096 with hnext | hnext
      · rw [lzwPass_of_insert hsym hfind hnext] at h
        obtain ⟨u, -, hu⟩ := andThen_eq_ok.mp h
        cases hu
        exact .inr (.inl ⟨hnext, rfl⟩)
      · rw [lzwPass_of_restart hsym hfind (le_antisymm hfull hnext)] at h
        obtain ⟨u, -, hu⟩ := andThen_eq_ok.mp h
        obtain ⟨v, -, hv⟩ := andThen_eq_ok.mp hu
        cases hv
        exact .inr (.inr rfl)
  · rw [lzwPass_of_bad hbad] at h
    cases h

theorem EncInv.lzwPass {sym : Byte} {s t : State} (hinv : EncInv s.lzw) (h : lzwPass sym s = .ok t) : EncInv t.lzw := by
  obtain ⟨hsym, ⟨code, hfind, hlzw⟩ | ⟨hnext, hlzw⟩ | hlzw⟩ := lzwPass_lzw_cases hinv.next.2 h <;> rw [hlzw]
  · exact hinv.withCode hfind
  · exact hinv.insert hsym hnext
  · exact hinv.restart hsym

/-! ### The opening -/

theorem minCodeSize_le {depth : Nat} (h : depth ≤ 8) : 2 ≤ minCodeSize depth ∧ minCodeSize depth ≤ 8 :=
  ⟨le_max_left _ _, max_le (by decide) h⟩

/-- The state in which the opening clear code is written. -/
def openingState (depth : Nat) (t : State) : State :=
  { t with lzw := LzwRegs.opening (minCodeSize depth) t.lzw.pre, pack := { acc := 0, nb := 0, blk := [] } }

/-- The opening is the minimum code size and the clear code (rules R150 to R154). -/
theorem openStream_eq (depth : Nat) (s : State) :
    openStream depth s =
      andThen (outByte (BitVec.ofNat 8 (minCodeSize depth)) (setConstants depth s)) fun t =>
        putCode (2 ^ minCodeSize depth) (minCodeSize depth + 1) (openingState depth t) := by
  rw [openStream]
  cases hout : outByte (BitVec.ofNat 8 (minCodeSize depth)) (setConstants depth s) with
  | error e => rfl
  | ok t =>
    have hlzw := ((packs_outByte _ _).regs t hout).1
    have hstate : resetDict (packInit t) = openingState depth t := by
      rw [openingState, resetDict, packInit, LzwRegs.opening, hlzw]
      rfl
    rw [andThen_ok, andThen_ok, hstate]
    rfl

theorem openStream_lzw {depth : Nat} {s t : State} (h : openStream depth s = .ok t) :
    ∃ pre, t.lzw = LzwRegs.opening (minCodeSize depth) pre := by
  rw [openStream_eq] at h
  obtain ⟨u, -, hput⟩ := andThen_eq_ok.mp h
  exact ⟨_, putCode_lzw hput⟩

/-! ### The errors -/

/-- The run raises no error but OutOverflow. -/
def OnlyOverflows (r : Except ErrCode State) : Prop := ∀ e, r = .error e → e = .outOverflow

theorem OnlyOverflows.ok (t : State) : OnlyOverflows (.ok t) := nofun

theorem OnlyOverflows.andThen {r : Except ErrCode State} {f : State → Except ErrCode State} (hr : OnlyOverflows r)
    (hf : ∀ t, r = .ok t → OnlyOverflows (f t)) : OnlyOverflows (andThen r f) := by
  intro e he
  rcases andThen_eq_error.mp he with he | ⟨t, ht, he⟩
  · exact hr e he
  · exact hf t ht e he

theorem OnlyOverflows.ite {p : Prop} [Decidable p] {r r' : Except ErrCode State} (hr : OnlyOverflows r)
    (hr' : OnlyOverflows r') : OnlyOverflows (if p then r else r') := by
  split
  · exact hr
  · exact hr'

theorem onlyOverflows_putCode (c w : Nat) (s : State) : OnlyOverflows (putCode c w s) := fun _ => putCode_error

theorem onlyOverflows_outByte (b : Byte) (s : State) : OnlyOverflows (outByte b s) := (packs_outByte b s).error

theorem onlyOverflows_outBytes (bs : List Byte) (s : State) : OnlyOverflows (outBytes bs s) :=
  (packs_outBytes bs s).error

theorem onlyOverflows_flush (s : State) : OnlyOverflows (flush s) := by
  refine .andThen (.andThen (.ite ?_ (.ok _)) fun t _ => .ite (packs_outBlk t).error (.ok _)) fun t _ =>
    onlyOverflows_outByte 0 t
  obtain ⟨bs, blk, hput, -⟩ := putBlkByte_packs (BitVec.ofNat 8 s.pack.acc) s.pack
  exact .andThen (hput s rfl).error fun t _ => .ok _

theorem onlyOverflows_endStream (s : State) : OnlyOverflows (endStream s) :=
  .andThen (onlyOverflows_putCode _ _ s) fun t _ => onlyOverflows_flush t

theorem onlyOverflows_openStream (depth : Nat) (s : State) : OnlyOverflows (openStream depth s) :=
  .andThen (onlyOverflows_outByte _ _) fun _ _ => onlyOverflows_putCode _ _ _

theorem onlyOverflows_lzwPass {sym : Byte} {s : State} (hsym : sym.toNat < s.lzw.clear) :
    OnlyOverflows (lzwPass sym s) := by
  rw [lzwPass, if_neg (Nat.not_le.mpr hsym)]
  split
  · exact .ok _
  · refine .andThen (.andThen (onlyOverflows_putCode _ _ s) fun t _ => .ite (.ok _) ?_) fun t _ => .ok _
    exact .andThen (onlyOverflows_putCode _ _ t) fun u _ => .ok _

theorem lzwPass_clear {sym : Byte} {s t : State} (hinv : EncInv s.lzw) (h : lzwPass sym s = .ok t) :
    t.lzw.clear = s.lzw.clear := by
  obtain ⟨-, ⟨code, -, hlzw⟩ | ⟨-, hlzw⟩ | hlzw⟩ := lzwPass_lzw_cases hinv.next.2 h <;> rw [hlzw] <;> rfl

theorem lzwLoop_regs {syms : List Byte} {s t : State} (hinv : EncInv s.lzw) (h : lzwLoop syms s = .ok t) :
    EncInv t.lzw ∧ t.lzw.clear = s.lzw.clear := by
  induction syms generalizing s with
  | nil =>
    cases h
    exact ⟨hinv, rfl⟩
  | cons sym syms ih =>
    obtain ⟨u, hu, hloop⟩ := andThen_eq_ok.mp h
    obtain ⟨hinv', hclear⟩ := ih (hinv.lzwPass hu) hloop
    exact ⟨hinv', hclear.trans (lzwPass_clear hinv hu)⟩

theorem onlyOverflows_lzwLoop (syms : List Byte) {s : State} (hinv : EncInv s.lzw)
    (hsyms : ∀ x ∈ syms, x.toNat < s.lzw.clear) : OnlyOverflows (lzwLoop syms s) := by
  induction syms generalizing s with
  | nil => exact .ok s
  | cons sym syms ih =>
    obtain ⟨hsym, hrest⟩ := List.forall_mem_cons.mp hsyms
    exact .andThen (onlyOverflows_lzwPass hsym) fun t ht =>
      ih (hinv.lzwPass ht) (by rwa [lzwPass_clear hinv ht])

theorem lzwLoop_append (syms rest : List Byte) (s : State) :
    lzwLoop (syms ++ rest) s = andThen (lzwLoop syms s) (lzwLoop rest) := by
  induction syms generalizing s with
  | nil => rfl
  | cons sym syms ih =>
    rw [List.cons_append, lzwLoop, lzwLoop, andThen_assoc]
    congr 1
    funext t
    exact ih t

theorem encodeSymbols_cons {sym : Byte} {s : State} (h : sym.toNat < s.lzw.clear) (syms : List Byte) :
    encodeSymbols (sym :: syms) s =
      andThen (lzwLoop syms (s.setPre sym.toNat)) fun t => andThen (putCode t.lzw.pre t.lzw.w t) endStream :=
  if_neg (Nat.not_le.mpr h)

section Opened

variable {m pre : Nat} {s : State} (hlow : 2 ≤ m) (hhigh : m ≤ 8) (hopen : s.lzw = LzwRegs.opening m pre)
include hlow hhigh hopen

theorem encInv_setPre_of_opened {sym : Byte} (hsym : sym.toNat < 2 ^ m) : EncInv (s.setPre sym.toNat).lzw := by
  rw [setPre_lzw, hopen]
  exact encInv_opening hlow hhigh hsym

theorem onlyOverflows_encodeSymbols {syms : List Byte} (hsyms : ∀ x ∈ syms, x.toNat < 2 ^ m) :
    OnlyOverflows (encodeSymbols syms s) := by
  cases syms with
  | nil => exact onlyOverflows_endStream s
  | cons sym syms =>
    obtain ⟨hsym, hrest⟩ := List.forall_mem_cons.mp hsyms
    have hclear : s.lzw.clear = 2 ^ m := by rw [hopen]; rfl
    rw [encodeSymbols_cons (hclear ▸ hsym)]
    refine .andThen (onlyOverflows_lzwLoop syms (encInv_setPre_of_opened hlow hhigh hopen hsym) ?_) fun t _ =>
      .andThen (onlyOverflows_putCode _ _ t) fun u _ => onlyOverflows_endStream u
    rw [setPre_lzw, hclear]
    exact hrest

/-- A symbol out of range ends the stream in EncodingFailure, unless OUT overflows before (rules R160, R239). -/
theorem encodeSymbols_of_bad {front rest : List Byte} {bad : Byte} (hfront : ∀ x ∈ front, x.toNat < 2 ^ m)
    (hbad : 2 ^ m ≤ bad.toNat) :
    encodeSymbols (front ++ bad :: rest) s = .error .encodingFailure ∨
      (encodeSymbols (front ++ bad :: rest) s = .error .outOverflow ∧ encodeSymbols front s = .error .outOverflow) := by
  have hclear : s.lzw.clear = 2 ^ m := by rw [hopen]; rfl
  cases front with
  | nil => exact .inl (if_pos (hclear ▸ hbad))
  | cons sym syms =>
    obtain ⟨hsym, hrest⟩ := List.forall_mem_cons.mp hfront
    have hinv := encInv_setPre_of_opened hlow hhigh hopen hsym
    rw [List.cons_append, encodeSymbols_cons (hclear ▸ hsym), encodeSymbols_cons (hclear ▸ hsym), lzwLoop_append]
    cases hloop : lzwLoop syms (s.setPre sym.toNat) with
    | error e =>
      obtain rfl := onlyOverflows_lzwLoop syms hinv (by rw [setPre_lzw, hclear]; exact hrest) e hloop
      exact .inr ⟨rfl, rfl⟩
    | ok t =>
      have hclear' : t.lzw.clear = 2 ^ m := (lzwLoop_regs hinv hloop).2.trans hclear
      have hpass : lzwPass bad t = .error .encodingFailure := lzwPass_of_bad (hclear' ▸ hbad)
      rw [andThen_ok, lzwLoop, hpass]
      exact .inl rfl

end Opened

/-! ### The bytes -/

/-- A code and what follows it append the bytes that are to come with the code's bits. -/
theorem putCode_appends {c w : Nat} {s : State} {f : State → Except ErrCode State} {bits : List Bool} (hs : OutFits s)
    (hp : PackInv s.pack) (hc : c < 2 ^ w)
    (hf : ∀ t, OutFits t → t.lzw = s.lzw → PackInv t.pack → Appends t (f t) (t.pack.rest bits)) :
    Appends s (andThen (putCode c w s) f) (s.pack.rest (codeBits (c, w) ++ bits)) := by
  obtain ⟨bs, q, hpacks, hrest⟩ := putCode_packs c w s.pack
  obtain ⟨hq, hbits⟩ := hrest hc hp
  rw [hbits bits]
  refine ((hpacks s rfl).appends hs).andThen hs fun t ht hfits => ?_
  obtain ⟨hlzw, hpack⟩ := (hpacks s rfl).regs t ht
  exact hpack ▸ hf t hfits hlzw (hpack ▸ hq)

theorem endStream_appends {s : State} (hs : OutFits s) (hp : PackInv s.pack) (hend : s.lzw.endCode < 2 ^ s.lzw.w) :
    Appends s (endStream s) (s.pack.rest (codeBits (s.lzw.endCode, s.lzw.w))) := by
  have h := putCode_appends (bits := []) hs hp hend fun t ht _ hp' => (packs_flush hp').appends ht
  rwa [List.append_nil] at h

/-- The rest of the stream after the first symbol (rules R155, R158, R159). -/
def finishStream (syms : List Byte) (s : State) : Except ErrCode State :=
  andThen (lzwLoop syms s) fun t => andThen (putCode t.lzw.pre t.lzw.w t) endStream

theorem finishStream_cons (sym : Byte) (syms : List Byte) (s : State) :
    finishStream (sym :: syms) s = andThen (lzwPass sym s) (finishStream syms) := by
  rw [finishStream, lzwLoop, andThen_assoc]
  rfl

/-- The encoder's loop appends the codes that follow from its registers. -/
theorem finishStream_appends (syms : List Byte) {r : LzwRegs} (h : EncInv r) (hsyms : ∀ x ∈ syms, x.toNat < r.clear) :
    ∀ s, s.lzw = r → OutFits s → PackInv s.pack →
      Appends s (finishStream syms s) (s.pack.rest ((r.codes syms).flatMap codeBits)) := by
  refine encoder_induction
    (P := fun syms r => ∀ s, s.lzw = r → OutFits s → PackInv s.pack →
      Appends s (finishStream syms s) (s.pack.rest ((r.codes syms).flatMap codeBits)))
    ?nil ?extend ?insert ?restart syms h hsyms
  case nil =>
    rintro _ h s rfl hs hp
    rw [h.codes_nil]
    refine putCode_appends hs hp h.pre_lt fun t ht hlzw hp' => ?_
    have hend := endStream_appends ht hp' (hlzw ▸ h.endCode_lt)
    rw [hlzw] at hend
    simpa using hend
  case extend =>
    rintro sym syms _ code h hsym hfind ih s rfl hs hp
    rw [finishStream_cons, lzwPass_of_match hsym hfind, LzwRegs.codes_of_match hfind]
    exact (ih (s.setPre code) rfl ⟨hs.size, hs.len⟩ hp).after_regs (p := s.pack) hs
  case insert =>
    rintro sym syms _ h hsym hfind hnext ih s rfl hs hp
    rw [finishStream_cons, lzwPass_of_insert hsym hfind hnext, andThen_assoc, LzwRegs.codes_of_insert hfind hnext,
      List.flatMap_cons]
    exact putCode_appends hs hp h.pre_lt fun t ht _ hp' =>
      (ih { t with lzw := _ } rfl ⟨ht.size, ht.len⟩ hp').after_regs (p := t.pack) ht
  case restart =>
    rintro sym syms _ h hsym hfind hnext ih s rfl hs hp
    rw [finishStream_cons, lzwPass_of_restart hsym hfind hnext, andThen_assoc, h.codes_of_restart hfind hnext,
      List.flatMap_cons, List.flatMap_cons]
    refine putCode_appends hs hp h.pre_lt fun t ht _ hp' => ?_
    rw [andThen_assoc]
    exact putCode_appends ht hp' h.clear_lt fun u hu _ hp'' =>
      (ih { u with lzw := _ } rfl ⟨hu.size, hu.len⟩ hp'').after_regs (p := u.pack) hu

/-- The stream after the opening clear code appends the bits of the codes behind it. -/
theorem encodeSymbols_appends {m pre : Nat} (hlow : 2 ≤ m) (hhigh : m ≤ 8) {syms : List Byte}
    (hsyms : ∀ x ∈ syms, x.toNat < 2 ^ m) {s : State} (hopen : s.lzw = LzwRegs.opening m pre) (hs : OutFits s)
    (hp : PackInv s.pack) :
    Appends s (encodeSymbols syms s) (s.pack.rest ((Reference.codes m syms).tail.flatMap codeBits)) := by
  cases syms with
  | nil =>
    have hend : s.lzw.endCode < 2 ^ s.lzw.w := by
      rw [hopen]
      exact (encInv_opening (pre := 0) hlow hhigh (Nat.two_pow_pos m)).endCode_lt
    have h := endStream_appends hs hp hend
    rw [hopen] at h
    rw [codes_nil, List.tail_cons, List.flatMap_singleton]
    exact h
  | cons sym syms =>
    obtain ⟨hsym, hrest⟩ := List.forall_mem_cons.mp hsyms
    have hclear : s.lzw.clear = 2 ^ m := by rw [hopen]; rfl
    have hpre : (s.setPre sym.toNat).lzw = LzwRegs.opening m sym.toNat := by
      rw [setPre_lzw, hopen]
      rfl
    rw [encodeSymbols_cons (hclear ▸ hsym), codes_cons, List.tail_cons]
    exact (finishStream_appends syms (encInv_opening hlow hhigh hsym) hrest _ hpre ⟨hs.size, hs.len⟩ hp).after_regs
      (p := s.pack) hs

theorem codes_head (m : Nat) (syms : List Byte) :
    Reference.codes m syms = (2 ^ m, m + 1) :: (Reference.codes m syms).tail := by
  cases syms <;> rfl

/-- LzwStream appends the stream of its symbols (rules R150, R176). -/
theorem lzwStream_appends {depth n : Nat} (hdepth : depth ≤ 8) {s : State} (hs : OutFits s)
    (hsyms : ∀ x ∈ s.symbols n, x.toNat < 2 ^ minCodeSize depth) :
    Appends s (lzwStream depth n s) (Reference.stream depth (s.symbols n)) := by
  obtain ⟨hlow, hhigh⟩ := minCodeSize_le hdepth
  have hopen : Appends s (outByte (BitVec.ofNat 8 (minCodeSize depth)) (setConstants depth s))
      [BitVec.ofNat 8 (minCodeSize depth)] :=
    (appends_outByte (s := setConstants depth s) ⟨hs.size, hs.len⟩ _).after_regs (p := s.pack) hs
  rw [lzwStream, openStream_eq, andThen_assoc, Reference.stream, codes_head, List.flatMap_cons, ← List.singleton_append]
  refine hopen.andThen hs fun t _ ht => ?_
  have hstart : OutFits (openingState depth t) := ⟨ht.size, ht.len⟩
  have hempty : PackInv (openingState depth t).pack := ⟨Nat.zero_le _, Nat.one_pos, Nat.zero_le _⟩
  exact (putCode_appends hstart hempty (Nat.pow_lt_pow_succ (by decide)) fun u hu hlzw hp =>
    encodeSymbols_appends hlow hhigh hsyms hlzw hu hp).after_regs ht

end Sys2Proof.Machine
end

section
/-! The obligations on the encoder's registers and on LzwStream. -/

namespace Sys2Proof.Machine

/-- Settles O52: the opening leaves the constants and an empty dictionary, and a pass is one of three changes of the
registers. -/
theorem encoderInvariant : Obligations.EncoderInvariant := by
  unfold Obligations.EncoderInvariant
  refine ⟨fun depth s t sym _ hdepth hopen hsym => ?_, fun sym s t hinv hpass => hinv.lzwPass hpass⟩
  obtain ⟨pre, hlzw⟩ := openStream_lzw hopen
  obtain ⟨hlow, hhigh⟩ := minCodeSize_le hdepth
  exact encInv_setPre_of_opened hlow hhigh hlzw hsym

/-- Settles O54: the register machine appends the reference stream. -/
theorem lzwStreamIsThePackedCodes : Obligations.LzwStreamIsThePackedCodes := by
  unfold Obligations.LzwStreamIsThePackedCodes
  intro depth n s _ hdepth hcap hlen hsyms bytes
  have hs : OutFits s := ⟨hcap, hlen⟩
  have happends := lzwStream_appends hdepth hs hsyms
  refine ⟨fun hfits => ?_, happends.overflows⟩
  obtain ⟨t, ht, hemits⟩ := happends.fits hfits
  exact ⟨t, ht, hemits.output hs, hemits.outLen hs, hemits.frame⟩

/-- Settles O59: with depth 8 the clear code is above every byte, so only OUT can fail; and FRAME's own checks raise
other errors. -/
theorem depthEightNeverFails : Obligations.DepthEightNeverFails := by
  unfold Obligations.DepthEightNeverFails
  have hstream : ∀ n s, OnlyOverflows (lzwStream 8 n s) := fun n s =>
    .andThen (onlyOverflows_openStream 8 s) fun t ht => by
      obtain ⟨pre, hlzw⟩ := openStream_lzw ht
      exact onlyOverflows_encodeSymbols (by decide) (by decide) hlzw fun x _ => x.isLt
  have hframe : ∀ w h d s, OnlyOverflows (writeFrame w h d s) := fun w h d s =>
    .andThen (onlyOverflows_outBytes _ s) fun t _ => .andThen (onlyOverflows_outBytes _ t) fun u _ =>
      .andThen (onlyOverflows_outBytes _ u) fun v _ => hstream _ v
  have hfinish : ∀ s, OnlyOverflows (finishFrame s) := fun s =>
    .ite (.andThen (onlyOverflows_outByte _ s) fun t _ => .ok _) (.ok _)
  refine ⟨fun n s h => (nomatch hstream n s _ h), fun s h => ?_⟩
  rw [runFrame] at h
  split at h
  · cases h
  · rcases andThen_eq_error.mp h with h | ⟨t, -, h⟩
    · exact nomatch hframe _ _ _ _ _ h
    · rw [testCancel] at h
      split at h
      · cases h
      · exact nomatch hfinish t _ h

end Sys2Proof.Machine
end

section
/-! The obligations on the command LZW. -/

namespace Sys2Proof.Machine

theorem CoreInv.outFits {s : State} (h : CoreInv s) : OutFits s := by
  obtain ⟨-, -, -, -, hcap⟩ := h.params
  exact ⟨hcap, h.outLen⟩

/-- The state in which LZW writes its stream (rule R162). -/
def lzwStart (d : BitVec 4) (s : State) : State := dropOutput (issue (.lzw d) s)

theorem outFits_lzwStart {s : State} (h : CoreInv s) (d : BitVec 4) : OutFits (lzwStart d s) :=
  ⟨h.outFits.size, Nat.zero_le _⟩

theorem wf_lzw {d : BitVec 4} (hlow : 1 ≤ d.toNat) (hhigh : d.toNat ≤ 8) : (IssuedOp.lzw d).instr.wf = true := by
  simp [IssuedOp.instr, Instr.wf, hlow, hhigh]

theorem exec_lzw_of_error {d : BitVec 4} {s : State} {k : ErrCode} (hlow : 1 ≤ d.toNat) (hhigh : d.toNat ≤ 8)
    (hready : Ready .idle s) (h : lzwStream d.toNat s.idxLen.toNat (lzwStart d s) = .error k) :
    ∃ t, exec (.lzw d) s = .next t ∧ InError k s t :=
  ⟨_, exec_of_body_error (op := .lzw d) (wf_lzw hlow hhigh) hready h, (inError_errorEntry k _).of_issue⟩

/-- Besides its stream LZW writes the working registers only. -/
theorem lzw_completion_frame {d : BitVec 4} {s u : State} (hb : s.busy = false)
    (hu : u = { lzwStart d s with outLen := u.outLen, out := u.out, lzw := u.lzw, pack := u.pack }) :
    { forgetWorking u with busy := false } =
      { s with
        outLen := u.outLen, out := u.out
        curOp := (forgetWorking u).curOp, lzw := (forgetWorking u).lzw, pack := (forgetWorking u).pack
        draws := (forgetWorking u).draws } := by
  rw [hu, hb]
  rfl

/-- Settles O57: LZW is LzwStream on an empty OUT. -/
theorem lzwWritesItsStream : Obligations.LzwWritesItsStream := by
  unfold Obligations.LzwWritesItsStream
  intro d s hinv hready hlow hhigh hsyms bytes
  have hs := outFits_lzwStart hinv d
  have happends : Appends (lzwStart d s) (lzwStream d.toNat s.idxLen.toNat (lzwStart d s)) bytes :=
    lzwStream_appends hhigh hs hsyms
  refine ⟨fun hfits => ?_, fun hover => exec_lzw_of_error hlow hhigh hready
    (happends.overflows (hover.trans_le (Nat.le_add_left _ _)))⟩
  obtain ⟨u, hu, hemits⟩ := happends.fits ((Nat.zero_add _).trans_le hfits)
  exact ⟨_, exec_of_body_ok (op := .lzw d) (wf_lzw hlow hhigh) hready hu, hemits.output hs,
    (hemits.outLen hs).trans (Nat.zero_add _), lzw_completion_frame hready.idle hemits.frame⟩

theorem symbols_split (s : State) {i n : Nat} (h : i < n) :
    ∃ rest, s.symbols n = s.symbols i ++ s.byte .idx i :: rest := by
  obtain ⟨k, rfl⟩ := Nat.exists_eq_add_of_lt h
  refine ⟨(List.range k).map fun j => s.byte .idx (i + 1 + j), ?_⟩
  rw [State.symbols, State.symbols, Nat.add_right_comm, List.range_add, List.map_append, List.map_map, List.range_succ,
    List.map_append, List.append_assoc]
  rfl

/-- Settles O58: the symbols before the bad one are encoded as they would be alone, and the bad one ends the stream. -/
theorem lzwSymbolOutOfRange : Obligations.LzwSymbolOutOfRange := by
  unfold Obligations.LzwSymbolOutOfRange
  intro d s i hinv hready hlow hhigh hi hbad hfront
  have hs := outFits_lzwStart hinv d
  obtain ⟨hm, hm'⟩ := minCodeSize_le hhigh
  obtain ⟨rest, hsplit⟩ := symbols_split s hi
  have hsyms : ∀ x ∈ s.symbols i, x.toNat < 2 ^ minCodeSize d.toNat := by
    simpa [State.symbols, minCodeSize] using hfront
  have happends : Appends (lzwStart d s) (lzwStream d.toNat i (lzwStart d s))
      (Reference.stream d.toNat (s.symbols i)) := lzwStream_appends hhigh hs hsyms
  -- what the whole stream gives, compared with the stream of the symbols in front
  have hresult : lzwStream d.toNat s.idxLen.toNat (lzwStart d s) = .error .encodingFailure ∨
      (lzwStream d.toNat s.idxLen.toNat (lzwStart d s) = .error .outOverflow ∧
        lzwStream d.toNat i (lzwStart d s) = .error .outOverflow) := by
    rw [lzwStream, lzwStream, show (lzwStart d s).symbols s.idxLen.toNat = _ from hsplit]
    cases hopen : openStream d.toNat (lzwStart d s) with
    | error e =>
      obtain rfl := onlyOverflows_openStream _ _ e hopen
      exact .inr ⟨rfl, rfl⟩
    | ok t =>
      obtain ⟨pre, hlzw⟩ := openStream_lzw hopen
      exact encodeSymbols_of_bad hm hm' hlzw hsyms hbad
  refine ⟨?_, fun hfits => exec_lzw_of_error hlow hhigh hready (hresult.resolve_right fun h => ?_)⟩
  · rcases hresult with h | ⟨h, -⟩
    · exact (exec_lzw_of_error hlow hhigh hready h).imp fun t ht => ht.imp_right .inl
    · exact (exec_lzw_of_error hlow hhigh hready h).imp fun t ht => ht.imp_right .inr
  · obtain ⟨t, ht, -⟩ := happends.fits ((Nat.zero_add _).trans_le hfits)
    exact nomatch ht.symm.trans h.2

/-- Settles O60: the stream of no symbols is evaluated for depths 8 and 2, and fits the least OUT. -/
theorem emptyStreamBytes : Obligations.EmptyStreamBytes := by
  unfold Obligations.EmptyStreamBytes
  intro s hinv hready hempty
  obtain ⟨-, -, -, hcap, -⟩ := hinv.params
  have hnil : s.symbols s.idxLen.toNat = [] := by rw [hempty]; rfl
  have hwrites : ∀ d : BitVec 4, 1 ≤ d.toNat → d.toNat ≤ 8 →
      (Reference.stream d.toNat []).length ≤ 33 →
      ∃ t, exec (.lzw d) s = .next t ∧ t.output = Reference.stream d.toNat [] := by
    intro d hlow hhigh hlen
    obtain ⟨hfits, -⟩ := lzwWritesItsStream d s hinv hready hlow hhigh (by simp [hnil])
    rw [hnil] at hfits
    obtain ⟨t, ht, houtput, -⟩ := hfits (hlen.trans hcap)
    exact ⟨t, ht, houtput⟩
  exact ⟨hwrites 8 (by decide) (by decide) (by decide), hwrites 2 (by decide) (by decide) (by decide)⟩

end Sys2Proof.Machine
end

section
/-! SUPPORT. The strings the codes stand for, and a reader of the codes beside the encoder: its table is the encoder's
but for the last entry, which the next code gives (rule R156). -/

namespace Sys2Proof.Machine

open Reference (stringOf readCodes)

theorem stringOf_symbol {m : Nat} {sym : Byte} (hsym : sym.toNat < 2 ^ m) (table : List (List Byte)) :
    stringOf m table sym.toNat = some [sym] := by
  rw [stringOf, if_pos hsym, BitVec.ofNat_toNat, BitVec.setWidth_eq]

theorem stringOf_append_of_ne (m : Nat) (table : List (List Byte)) (last : List Byte) {code : Nat}
    (h : code ≠ 2 ^ m + 2 + table.length) : stringOf m (table ++ [last]) code = stringOf m table code := by
  rw [stringOf, stringOf]
  split
  · rfl
  · split
    · rfl
    · rw [List.getElem?_append]
      split
      · rfl
      · rw [List.getElem?_eq_none (by simp only [List.length_singleton]; omega), List.getElem?_eq_none (by omega)]

theorem stringOf_append_last (m : Nat) (table : List (List Byte)) (last : List Byte) :
    stringOf m (table ++ [last]) (2 ^ m + 2 + table.length) = some last := by
  rw [stringOf, if_neg (by omega), if_neg (by omega), Nat.add_sub_cancel_left, List.getElem?_concat_length]

theorem stringOf_new (m : Nat) (table : List (List Byte)) : stringOf m table (2 ^ m + 2 + table.length) = none := by
  rw [stringOf, if_neg (by omega), if_neg (by omega), Nat.add_sub_cancel_left, List.getElem?_eq_none le_rfl]

/-- The strings of the encoder's dictionary, entry by entry, and `S`, the string matched so far. -/
structure EncTable (r : LzwRegs) (table : List (List Byte)) (S : List Byte) : Prop where
  length : 2 ^ r.m + 2 + table.length = r.next
  matched : stringOf r.m table r.pre = some S
  nonempty : S ≠ []
  entries : ∀ e ∈ r.dict, ∃ str, stringOf r.m table e.pre = some str ∧ stringOf r.m table e.code = some (str ++ [e.sym])

theorem encTable_opening {m : Nat} {sym : Byte} (hsym : sym.toNat < 2 ^ m) :
    EncTable (LzwRegs.opening m sym.toNat) [] [sym] :=
  ⟨rfl, stringOf_symbol hsym _, List.cons_ne_nil _ _, nofun⟩

section
variable {r : LzwRegs} {table : List (List Byte)} {S : List Byte} {sym : Byte}

theorem EncTable.extend (h : EncTable r table S) {code : Nat} (hfind : dictFind r.pre sym r.dict = some code) :
    EncTable { r with pre := code } table (S ++ [sym]) := by
  obtain ⟨str, hpre, hcode⟩ := h.entries _ (mem_of_dictFind hfind)
  obtain rfl : S = str := Option.some.inj (h.matched.symm.trans hpre)
  exact { h with matched := hcode, nonempty := by simp }

theorem EncTable.insert (h : EncTable r table S) (hr : EncInv r) (hsym : sym.toNat < r.clear) :
    EncTable (r.insert sym) (table ++ [S ++ [sym]]) [sym] where
  length := by
    rw [List.length_append, List.length_singleton, ← Nat.add_assoc]
    exact congrArg (· + 1) h.length
  matched := stringOf_symbol (hr.clear ▸ hsym) _
  nonempty := List.cons_ne_nil _ _
  entries := by
    have hold : ∀ {code str}, stringOf r.m table code = some str →
        stringOf r.m (table ++ [S ++ [sym]]) code = some str := fun {code str} hcode => by
      rw [stringOf_append_of_ne, hcode]
      rintro rfl
      rw [stringOf_new] at hcode
      cases hcode
    intro e he
    rcases List.mem_cons.mp he with rfl | he
    · refine ⟨S, hold h.matched, ?_⟩
      rw [← h.length]
      exact stringOf_append_last _ _ _
    · obtain ⟨str, hpre, hcode⟩ := h.entries e he
      exact ⟨str, hold hpre, hold hcode⟩

end

/-- The reader's table and its previous string beside the encoder's table and the string `S` matched so far. -/
def Synced (encoder : List (List Byte)) (S : List Byte) (table : List (List Byte)) : Option (List Byte) → Prop
  | none => encoder = table
  | some before => before ≠ [] ∧ encoder = table ++ [before ++ S.take 1]

theorem Synced.extend {encoder table : List (List Byte)} {S : List Byte} {previous : Option (List Byte)}
    (h : Synced encoder S table previous) (hS : S ≠ []) (sym : Byte) : Synced encoder (S ++ [sym]) table previous := by
  cases previous with
  | none => exact h
  | some before =>
    obtain ⟨x, xs, rfl⟩ := List.exists_cons_of_ne_nil hS
    exact h

/-- The code of the matched string gives the reader that string, and the encoder's table. -/
theorem readCodes_pre {r : LzwRegs} {encoder table : List (List Byte)} {S : List Byte} {previous : Option (List Byte)}
    (hr : EncInv r) (h : EncTable r encoder S) (hsync : Synced encoder S table previous) (rest : List Nat) :
    readCodes r.m (r.pre :: rest) table previous = (readCodes r.m rest encoder (some S)).map (S ++ ·) := by
  obtain ⟨-, hclear, hend⟩ := hr.pre
  rw [hr.endCode] at hend
  rw [hr.clear] at hclear hend
  have hmatched := h.matched
  cases previous with
  | none =>
    obtain rfl : encoder = table := hsync
    rw [readCodes, if_neg hclear, if_neg hend, hmatched]
    rfl
  | some before =>
    obtain ⟨hbefore, rfl⟩ := hsync
    have hroom : 2 ^ r.m + 2 + table.length < 4096 := by
      have hlength := h.length
      have hnext := hr.next.2
      rw [List.length_append, List.length_singleton] at hlength
      omega
    rw [readCodes, if_neg hclear, if_neg hend]
    simp only [if_pos hroom]
    by_cases hnew : r.pre = 2 ^ r.m + 2 + table.length
    · -- the code of the entry about to be made: its string is `before` with its own first symbol after it
      rw [hnew, stringOf_append_last] at hmatched
      have hS : before ++ S.take 1 = S := Option.some.inj hmatched
      have hfirst : S.take 1 = before.take 1 := by
        obtain ⟨x, xs, rfl⟩ := List.exists_cons_of_ne_nil hbefore
        rw [← hS]
        rfl
      rw [hnew, stringOf_new, ← hfirst, hS]
      simp only [if_pos, Option.bind_some, hS]
    · rw [stringOf_append_of_ne _ _ _ hnew] at hmatched
      rw [hmatched]
      rfl

theorem readCodes_codes (syms : List Byte) {r : LzwRegs} (hr : EncInv r) (hsyms : ∀ x ∈ syms, x.toNat < r.clear)
    {encoder table : List (List Byte)} {S : List Byte} {previous : Option (List Byte)} (h : EncTable r encoder S)
    (hsync : Synced encoder S table previous) :
    readCodes r.m ((r.codes syms).map Prod.fst) table previous = some (S ++ syms) := by
  refine encoder_induction
    (P := fun syms r => ∀ encoder table S previous, EncTable r encoder S → Synced encoder S table previous →
      readCodes r.m ((r.codes syms).map Prod.fst) table previous = some (S ++ syms))
    ?nil ?extend ?insert ?restart syms hr hsyms _ _ _ _ h hsync
  case nil =>
    intro r hr encoder table S previous h hsync
    rw [hr.codes_nil, List.map_cons, readCodes_pre hr h hsync, List.map_cons, readCodes, if_neg, if_pos]
    · rfl
    · rw [hr.endCode, hr.clear]
    · rw [hr.endCode, hr.clear]
      omega
  case extend =>
    intro sym syms r code hr _ hfind ih encoder table S previous h hsync
    rw [LzwRegs.codes_of_match hfind, List.append_cons]
    exact ih _ _ _ _ (h.extend hfind) (hsync.extend h.nonempty sym)
  case insert =>
    intro sym syms r hr hsym hfind hnext ih encoder table S previous h hsync
    have hrest := ih _ _ _ (some S) (h.insert hr hsym) ⟨h.nonempty, rfl⟩
    rw [LzwRegs.codes_of_insert hfind hnext, List.map_cons, readCodes_pre hr h hsync]
    exact congrArg (Option.map (S ++ ·)) hrest
  case restart =>
    intro sym syms r hr hsym hfind hnext ih encoder table S previous h hsync
    rw [hr.codes_of_restart hfind hnext, List.map_cons, readCodes_pre hr h hsync, List.map_cons, readCodes,
      if_pos hr.clear]
    rw [LzwRegs.restart_eq_opening hr.clear hr.endCode] at ih ⊢
    exact congrArg (Option.map (S ++ ·)) (ih [] [] [sym] none (encTable_opening (hr.clear ▸ hsym)) rfl)

end Sys2Proof.Machine
end

section
/-! The obligation on the reader. -/

namespace Sys2Proof.Machine

/-- Settles O55: the reader's table follows the encoder's through every pass. -/
theorem codesReadBackToSymbols : Obligations.CodesReadBackToSymbols := by
  unfold Obligations.CodesReadBackToSymbols
  intro m syms hlow hhigh hsyms
  cases syms with
  | nil =>
    rw [codes_nil, List.map_cons, Reference.readCodes, if_pos rfl, List.map_cons, Reference.readCodes, if_neg, if_pos rfl]
    exact Nat.succ_ne_self _
  | cons sym syms =>
    obtain ⟨hsym, hrest⟩ := List.forall_mem_cons.mp hsyms
    rw [codes_cons, List.map_cons, Reference.readCodes, if_pos rfl]
    exact readCodes_codes syms (encInv_opening hlow hhigh hsym) hrest (encTable_opening hsym)
      (table := []) (previous := none) rfl

end Sys2Proof.Machine
end

section
/-! SUPPORT. WriteHeader and the body of BEGIN (rules R186, R207). -/

namespace Sys2Proof.Machine

/-- The two bytes of a 16-bit value, as the machine cuts them and as the grammar gives them. -/
theorem le16_eq_littleEndian (v : Half) : le16 v = littleEndian v := by
  have hlow : v.extractLsb' 0 8 = BitVec.ofNat 8 (v.toNat % 256) :=
    BitVec.eq_of_toNat_eq (by simp)
  have hhigh : v.extractLsb' 8 8 = BitVec.ofNat 8 (v.toNat / 256) :=
    BitVec.eq_of_toNat_eq (by simp [Nat.shiftRight_eq_div_pow])
  rw [le16, littleEndian, hlow, hhigh]

theorem writeHeader_appends (w h : Half) {s : State} (hs : OutFits s) :
    Appends s (writeHeader w h s) (gifHeader w h) := by
  have hbytes : gifHeader w h = signature ++ (screenDesc w h ++ loopExt) := by
    rw [screenDesc, le16_eq_littleEndian, le16_eq_littleEndian]
    rfl
  rw [hbytes]
  exact (appends_outBytes _ s).andThen hs fun t _ ht =>
    (appends_outBytes _ t).andThen ht fun u _ _ => appends_outBytes _ u

theorem badDimensions_eq_false_iff (s : State) : badDimensions s = false ↔ GoodDimensions s := by
  simp only [badDimensions, Bool.or_eq_false_iff, beq_eq_false_iff_ne, decide_eq_false_iff_not, GoodDimensions]
  omega

theorem runBegin_of_empty {s : State} (h : s.frameCount = 0) : runBegin s = .error .emptyInput := if_pos h

theorem runBegin_of_bad {s : State} (hcount : s.frameCount ≠ 0) (hbad : ¬ GoodDimensions s) :
    runBegin s = .error .badDimension := by
  rw [← badDimensions_eq_false_iff, Bool.not_eq_false] at hbad
  rw [runBegin, if_neg hcount, if_pos hbad]

section GoodBegin

variable {s : State} (hs : OutFits s) (hroom : s.outLen.toNat + 32 ≤ s.params.outCapacity) (hcount : s.frameCount ≠ 0)
  (hgood : GoodDimensions s)
include hs hroom hcount hgood

/-- With frames announced and good dimensions BEGIN writes the header, then tests CANCEL_REQ (rule R207). -/
theorem runBegin_of_good :
    ∃ t, Emits s t (gifHeader s.width s.height) ∧
      runBegin s = testCancel (fun t => .ok { t with phase := .opened }) t := by
  obtain ⟨t, ht, hemits⟩ := (writeHeader_appends s.width s.height hs).fits hroom
  refine ⟨t, hemits, ?_⟩
  rw [runBegin, if_neg hcount, if_neg (by simp [(badDimensions_eq_false_iff s).mpr hgood]), ht, andThen_ok]

theorem runBegin_of_cancelReq (hcancel : s.cancelReq = true) : runBegin s = .error .cancelled := by
  obtain ⟨t, hemits, hrun⟩ := runBegin_of_good hs hroom hcount hgood
  rw [hrun, testCancel, if_pos (by rw [hemits.frame]; exact hcancel)]

theorem runBegin_ok (hcancel : s.cancelReq = false) :
    ∃ t, Emits s t (gifHeader s.width s.height) ∧ runBegin s = .ok { t with phase := .opened } := by
  obtain ⟨t, hemits, hrun⟩ := runBegin_of_good hs hroom hcount hgood
  refine ⟨t, hemits, ?_⟩
  rw [hrun, testCancel, if_neg (by rw [hemits.frame]; simp [hcancel])]

end GoodBegin

theorem outFits_startConversion {s : State} (h : s.params.wf) : OutFits (startConversion s) := by
  obtain ⟨-, -, -, -, hcap⟩ := h
  exact ⟨hcap, Nat.zero_le _⟩

/-- An empty OUT has room for the header (rule R8). -/
theorem room_startConversion {s : State} (h : s.params.wf) :
    (startConversion s).outLen.toNat + 32 ≤ (startConversion s).params.outCapacity := by
  obtain ⟨-, -, -, hcap, -⟩ := h
  exact (Nat.zero_add 32).trans_le (hcap.trans' (by decide))

/-- Besides its results BEGIN writes the working registers only. -/
theorem begin_completion_frame {s u : State} (hb : s.busy = false) (hlen : u.outLen = 32)
    (hu : u =
      { startConversion (issue .begin s) with outLen := u.outLen, out := u.out, lzw := u.lzw, pack := u.pack }) :
    { forgetWorking { u with phase := .opened } with busy := false } =
      { s with
        phase := .opened, framesDone := 0, outLen := 32, out := u.out
        curOp := (forgetWorking u).curOp, lzw := (forgetWorking u).lzw, pack := (forgetWorking u).pack
        draws := (forgetWorking u).draws } := by
  rw [hlen] at hu
  rw [hu, hb]
  rfl

/-- A ready BEGIN that raises an error raises it after its first line. -/
theorem exec_begin_of_error {s : State} {k : ErrCode} (h : Ready .idle s)
    (hbody : runBegin (startConversion (issue .begin s)) = .error k) :
    ∃ t, exec .begin s = .next t ∧ InError k { s with framesDone := 0 } t :=
  ⟨_, exec_of_body_error (op := .begin) rfl h hbody,
    InError.of_issue (op := .begin) (inError_errorEntry k (startConversion (issue .begin s))).of_startConversion⟩

end Sys2Proof.Machine
end

section
/-! The obligations on BEGIN. -/

namespace Sys2Proof.Machine

/-- Settles O29: with its checks passed BEGIN appends the header to an empty OUT, which has room for it. -/
theorem beginOpensConversion : Obligations.BeginOpensConversion := by
  unfold Obligations.BeginOpensConversion
  intro s hready hcancel hparams hcount hgood
  have hs : OutFits (startConversion (issue .begin s)) := outFits_startConversion (s := issue .begin s) hparams
  obtain ⟨u, hemits, hrun⟩ := runBegin_ok hs (room_startConversion (s := issue .begin s) hparams) hcount hgood hcancel
  have hlen : u.outLen = 32 := BitVec.eq_of_toNat_eq (hemits.outLen hs)
  exact ⟨_, exec_of_body_ok (op := .begin) rfl hready hrun, (hemits.output hs).trans (List.nil_append _),
    begin_completion_frame hready.idle hlen hemits.frame⟩

/-- Settles O30: the number of frames is checked before the dimensions. -/
theorem beginReportsFirstError : Obligations.BeginReportsFirstError := by
  unfold Obligations.BeginReportsFirstError
  exact fun s hready => ⟨fun hzero => exec_begin_of_error hready (runBegin_of_empty hzero),
    fun hcount hbad => exec_begin_of_error hready (runBegin_of_bad hcount hbad)⟩

end Sys2Proof.Machine
end

section
/-! SUPPORT. What FRAME samples, quantizes and indexes before it writes, in the terms of the reference (rule R208). -/

namespace Sys2Proof.Machine

/-! ### The samples -/

theorem length_framePixels (s : State) : (Reference.framePixels s).length = s.width.toNat * s.height.toNat := by
  simp [Reference.framePixels]

theorem getElem?_framePixels {s : State} {p : Nat} (hp : p < s.width.toNat * s.height.toNat) :
    (Reference.framePixels s)[p]? = some (s.pixel p) := by
  simp [Reference.framePixels, hp]

/-- Every `stride`-th pixel of the frame, as the machine takes them (rule R121). -/
theorem everyNth_framePixels (s : State) {stride : Nat} (hstride : 0 < stride) :
    Reference.everyNth stride (Reference.framePixels s) =
      sampledPixels s (s.width.toNat * s.height.toNat) stride := by
  rw [Reference.everyNth, sampledPixels, length_framePixels, ← List.filterMap_eq_map]
  refine List.filterMap_congr fun j hj => getElem?_framePixels ?_
  rw [Nat.mul_comm]
  exact (lt_ceilDiv_iff hstride).mp (List.mem_range.mp hj)

/-- The samples of a frame with pixels, in the terms of the reference. -/
theorem sampleFrame_samples {s : State} (hn : 0 < s.width.toNat * s.height.toNat)
    (hbudget : 0 < s.params.sampleBudget) (hsmall : s.width.toNat * s.height.toNat < 2 ^ 32) :
    (sampleFrame (s.width.toNat * s.height.toNat) s).samples =
      Reference.everyNth (ceilDiv (Reference.framePixels s).length s.params.sampleBudget)
        (Reference.framePixels s) := by
  rw [length_framePixels, everyNth_framePixels s (ceilDiv_pos hn hbudget)]
  refine samples_of_smp_eq (s := s) ?_ ?_
  · rw [sampleFrame_of_pos hn, sampleStride]
  · rw [sampleFrame_smpCount hn hbudget hsmall, length_sampledPixels, sampleStride]

/-! ### The indexed frame -/

/-- The two states differ in the results of Sample, MedianCut and Index at most. -/
def SameButUnits (s t : State) : Prop :=
  t = { s with
        smp := t.smp, smpCount := t.smpCount, stride := t.stride, bkt := t.bkt, bktCount := t.bktCount
        pal := t.pal, idx := t.idx, idxLen := t.idxLen }

theorem SameButUnits.trans {s t u : State} (h1 : SameButUnits s t) (h2 : SameButUnits t u) : SameButUnits s u := by
  refine Eq.trans h2 ?_
  rw [h1]

theorem SameButUnits.pixel {s t : State} (h : SameButUnits s t) (p : Nat) : t.pixel p = s.pixel p :=
  rgbAt_of_mem_eq (sp := .fb) (congrArg State.fb h) _

theorem sameButUnits_sampleFrame (n : Nat) (s : State) : SameButUnits s (sampleFrame n s) := by
  rw [sampleFrame]
  split <;> rfl

theorem sameButUnits_medianCut (s : State) : SameButUnits s (medianCut s) := rfl

theorem sameButUnits_indexFrame (n : Nat) (s : State) : SameButUnits s (indexFrame n s) := rfl

/-- What the units leave of a frame in `u`, from the state `s` of its issue. -/
structure Indexed (s u : State) : Prop where
  stride : u.stride.toNat = ceilDiv (s.width.toNat * s.height.toNat) s.params.sampleBudget
  smpCount : u.smpCount.toNat = ceilDiv (s.width.toNat * s.height.toNat) u.stride.toNat
  smpBound : u.smpCount.toNat ≤ s.params.sampleBudget
  samples : u.samples = (Reference.frameCut s.params.sampleBudget (Reference.framePixels s)).samples
  bkt : u.bkt = (Reference.frameCut s.params.sampleBudget (Reference.framePixels s)).buckets
  bktCount : u.bktCount.toNat = (Reference.frameCut s.params.sampleBudget (Reference.framePixels s)).buckets.length
  palette : u.palette = Reference.palette s.params.sampleBudget (Reference.framePixels s)
  idxLen : u.idxLen.toNat = s.width.toNat * s.height.toNat
  symbols : u.symbols (s.width.toNat * s.height.toNat) =
    Reference.indices (Reference.palette s.params.sampleBudget (Reference.framePixels s)) (Reference.framePixels s)
  idxRest : ∀ x, s.width.toNat * s.height.toNat ≤ x → u.byte .idx x = s.byte .idx x
  smpRest : ∀ x, 3 * u.smpCount.toNat ≤ x → u.byte .smp x = s.byte .smp x
  palRest : ∀ x, 768 ≤ x → u.byte .pal x = s.byte .pal x

/-- The frame sampled, quantized and indexed (rule R208). -/
def indexedFrame (s : State) : State :=
  indexFrame (s.width.toNat * s.height.toNat) (medianCut (sampleFrame (s.width.toNat * s.height.toNat) s))

theorem sameButUnits_indexedFrame (s : State) : SameButUnits s (indexedFrame s) :=
  ((sameButUnits_sampleFrame _ s).trans (sameButUnits_medianCut _)).trans (sameButUnits_indexFrame _ _)

/-- The pixels of an established conversion: some, and no more than FB holds (rule R207). -/
theorem framePixels_bounds {s : State} (hparams : s.params.wf) (hgood : GoodDimensions s) :
    0 < s.width.toNat * s.height.toNat ∧ s.width.toNat * s.height.toNat < 2 ^ 32 := by
  obtain ⟨-, -, hmax, -, -⟩ := hparams
  obtain ⟨hw, hh, -, -, hfits⟩ := hgood
  exact ⟨Nat.mul_pos (by omega) (by omega), by omega⟩

theorem indexed_indexedFrame {s : State} (hparams : s.params.wf) (hgood : GoodDimensions s) :
    Indexed s (indexedFrame s) := by
  obtain ⟨hn, hsmall⟩ := framePixels_bounds hparams hgood
  obtain ⟨hbudget, -⟩ := hparams
  -- the state `a` after Sample
  obtain ⟨hstride, hcount, -, hbound, -⟩ := sampleFrame_spec hn hbudget hsmall
  have hsamples := sampleFrame_samples hn hbudget hsmall
  have hsmp := fun x => byte_sampleFrame_of_le (n := s.width.toNat * s.height.toNat) hbudget hsmall (x := x)
  have hunits := sameButUnits_sampleFrame (s.width.toNat * s.height.toNat) s
  have hframe := sampleFrame_frame (s.width.toNat * s.height.toNat) s
  rw [indexedFrame]
  generalize sampleFrame (s.width.toNat * s.height.toNat) s = a at *
  have hpal : a.pal = s.pal := by rw [hframe]
  have hidx : a.idx = s.idx := by rw [hframe]
  -- the state `b` after MedianCut
  have hcutSamples := medianCut_samples a
  have hbkt := medianCut_bkt a
  have hbktCount := medianCut_bktCount a
  have hpalette := medianCut_palette a
  rw [hsamples] at hcutSamples hbkt hbktCount hpalette
  have hcutSmp := fun x => byte_smp_medianCut a (x := x)
  have hcutPal := fun x => byte_pal_medianCut a (x := x)
  have hcutUnits := sameButUnits_medianCut a
  have hcutFrame := medianCut_frame a
  generalize medianCut a = b at *
  have hcutCount : b.smpCount = a.smpCount := by rw [hcutFrame]
  have hcutStride : b.stride = a.stride := by rw [hcutFrame]
  have hcutIdx : b.idx = a.idx := by rw [hcutFrame]
  constructor
  case stride => exact (congrArg _ hcutStride).trans hstride
  case smpCount => exact (congrArg _ hcutCount).trans (hcount.trans (by rw [← hcutStride]; rfl))
  case smpBound => exact (congrArg _ hcutCount).trans_le hbound
  case samples => exact hcutSamples
  case bkt => exact hbkt
  case bktCount => exact hbktCount
  case palette => exact hpalette
  case idxLen => exact indexFrame_idxLen hsmall b
  case symbols =>
    rw [indexFrame_symbols, hpalette]
    simp only [hcutUnits.pixel, hunits.pixel, Reference.indices, Reference.framePixels, List.map_map]
    rfl
  case idxRest =>
    intro x hx
    rw [byte_idx_indexFrame_of_le hx]
    exact byte_of_mem_eq (sp := .idx) (hcutIdx.trans hidx) x
  case smpRest =>
    intro x hx
    rw [← hcutCount] at hsmp
    exact (hcutSmp x (hcutCount ▸ hx)).trans (hsmp x hx)
  case palRest => exact fun x hx => (hcutPal x hx).trans (byte_of_mem_eq (sp := .pal) hpal x)

end Sys2Proof.Machine
end

section
/-! SUPPORT. WriteFrame and the body of FRAME (rules R190, R208, R209). -/

namespace Sys2Proof.Machine

open Reference (frameGroup frameBytes)

theorem Emits.palette {s t : State} {bs : List Byte} (h : Emits s t bs) : t.palette = s.palette := by
  rw [h.frame]
  rfl

theorem Emits.symbols {s t : State} {bs : List Byte} (h : Emits s t bs) (n : Nat) : t.symbols n = s.symbols n := by
  rw [h.frame]
  rfl

/-- WriteFrame appends the two headers, the palette and the stream of the indices (rule R190). -/
theorem writeFrame_appends (w h d : Half) {s : State} (hs : OutFits s) :
    Appends s (writeFrame w h d s)
      (gifFrameHeader w h d ++ s.palette.flatMap Rgb.bytes ++
        Reference.stream 8 (s.symbols (w.toNat * h.toNat))) := by
  have hbytes : gifFrameHeader w h d = graphicCtl d ++ imageDesc w h := by
    rw [graphicCtl, imageDesc, le16_eq_littleEndian d, le16_eq_littleEndian w, le16_eq_littleEndian h]
    rfl
  rw [hbytes, List.append_assoc, List.append_assoc]
  refine (appends_outBytes _ s).andThen hs fun t ht hfits => ?_
  have htail := outBytes_emits ht
  refine (appends_outBytes _ t).andThen hfits fun u hu hfits => ?_
  have hemits := htail.trans hs (outBytes_emits hu)
  rw [← hemits.palette]
  refine (appends_outBytes _ u).andThen hfits fun v hv hfits => ?_
  rw [← (hemits.trans hs (outBytes_emits hv)).symbols]
  exact lzwStream_appends le_rfl hfits fun x _ => x.isLt

section Units

variable {s u : State} (h : SameButUnits s u)
include h

theorem SameButUnits.outFits (hs : OutFits s) : OutFits u := by
  rw [h]
  exact ⟨hs.size, hs.len⟩

theorem SameButUnits.outLen : u.outLen = s.outLen := by rw [h]

theorem SameButUnits.params : u.params = s.params := by rw [h]

theorem SameButUnits.output : u.output = s.output := by
  rw [h]
  rfl

end Units

/-- The frame group of the indexed frame (rules R190 to R194). -/
theorem Indexed.writeFrame_appends {s u : State} (h : Indexed s u) (hunits : SameButUnits s u) (hs : OutFits s) :
    Appends u (writeFrame s.width s.height s.delay u)
      (frameGroup s.width s.height s.delay s.params.sampleBudget (Reference.framePixels s)) := by
  have happends := Machine.writeFrame_appends s.width s.height s.delay (hunits.outFits hs)
  rwa [h.palette, h.symbols] at happends

/-! ### The end of FRAME -/

/-- The frame that is written is the last one announced. -/
abbrev LastFrame (s : State) : Prop := s.framesDone.toNat + 1 = s.frameCount.toNat

/-- What the units leave of a frame is not touched by what is appended to OUT. -/
theorem Indexed.emits {s u t : State} {bs : List Byte} (h : Indexed s u) (hemits : Emits u t bs) : Indexed s t := by
  rw [hemits.frame]
  exact
    ⟨h.stride, h.smpCount, h.smpBound, h.samples, h.bkt, h.bktCount, h.palette, h.idxLen, h.symbols, h.idxRest, h.smpRest,
      h.palRest⟩

/-- The trailer, after the last frame only (rule R209). -/
def closeContainer (s : State) : Except ErrCode State := if LastFrame s then writeTrailer s else .ok s

/-- `t` with the frame counted that FRAME wrote from `s` (rule R209). -/
def countFrame (s t : State) : State :=
  { t with framesDone := t.framesDone + 1, phase := if LastFrame s then .done else t.phase }

theorem finishFrame_eq (s : State) : finishFrame s = andThen (closeContainer s) fun t => .ok (countFrame s t) := by
  by_cases hlast : LastFrame s
  · rw [finishFrame, if_pos hlast, closeContainer, if_pos hlast]
    simp only [countFrame, if_pos hlast]
  · rw [finishFrame, if_neg hlast, closeContainer, if_neg hlast, andThen_ok, countFrame, if_neg hlast]

theorem closeContainer_appends {s : State} (hs : OutFits s) :
    Appends s (closeContainer s) (if LastFrame s then [0x3B] else []) := by
  rw [closeContainer]
  split
  · exact appends_outByte hs _
  · exact Appends.regs hs s.lzw s.pack

/-- What of `s` is in every state WriteFrame can lead to. -/
theorem writeFrame_kept {s u t : State} {w h d : Half} (hunits : SameButUnits s u) (hu : OutFits u)
    (ht : writeFrame w h d u = .ok t) :
    t.cancelReq = s.cancelReq ∧ t.framesDone = s.framesDone ∧ t.frameCount = s.frameCount ∧ t.phase = s.phase := by
  rw [((Machine.writeFrame_appends w h d hu).emits ht).frame, hunits]
  exact ⟨rfl, rfl, rfl, rfl⟩

section Matching

variable {s : State} (hparams : s.params.wf) (hgood : GoodDimensions s) (hs : OutFits s) (hw : s.frameW = s.width)
  (hh : s.frameH = s.height)
include hw hh

theorem runFrame_of_match :
    runFrame s = andThen (writeFrame s.width s.height s.delay (indexedFrame s)) (testCancel finishFrame) :=
  if_neg (by simp [hw, hh])

include hparams hgood hs

/-- FRAME overflows when its frame group does not fit, CANCEL_REQ set or not (rules R208, R239). -/
theorem runFrame_of_overflow
    (hover : s.params.outCapacity < s.outLen.toNat +
      (frameGroup s.width s.height s.delay s.params.sampleBudget (Reference.framePixels s)).length) :
    runFrame s = .error .outOverflow := by
  have hindexed := indexed_indexedFrame hparams hgood
  have hunits := sameButUnits_indexedFrame s
  rw [runFrame_of_match hw hh, (hindexed.writeFrame_appends hunits hs).overflows, andThen_error]
  rwa [hunits.outLen, hunits.params]

/-- A recorded CANCEL ends FRAME before the trailer (rule R208). -/
theorem runFrame_of_cancelReq (hcancel : s.cancelReq = true)
    (hfits : s.outLen.toNat +
      (frameGroup s.width s.height s.delay s.params.sampleBudget (Reference.framePixels s)).length ≤
        s.params.outCapacity) :
    runFrame s = .error .cancelled := by
  have hindexed := indexed_indexedFrame hparams hgood
  have hunits := sameButUnits_indexedFrame s
  obtain ⟨t, ht, -⟩ := (hindexed.writeFrame_appends hunits hs).fits
    (by rwa [hunits.outLen, hunits.params])
  obtain ⟨hkept, -⟩ := writeFrame_kept hunits (hunits.outFits hs) ht
  rw [runFrame_of_match hw hh, ht, andThen_ok, testCancel, if_pos (hkept.trans hcancel)]

/-- Without CANCEL_REQ the frame group and the trailer are written, then the frame is counted (rule R208). -/
theorem runFrame_of_alone (hcancel : s.cancelReq = false) :
    ∃ u r, Indexed s u ∧ SameButUnits s u ∧ Appends u r (frameBytes s) ∧ runFrame s = andThen r fun t => .ok (countFrame s t) := by
  have hindexed := indexed_indexedFrame hparams hgood
  have hunits := sameButUnits_indexedFrame s
  have hrun := runFrame_of_match hw hh
  generalize indexedFrame s = u at hindexed hunits hrun
  have hu := hunits.outFits hs
  refine ⟨u, andThen (writeFrame s.width s.height s.delay u) closeContainer, hindexed, hunits, ?_, ?_⟩
  · refine (hindexed.writeFrame_appends hunits hs).andThen hu fun t ht hfits => ?_
    obtain ⟨-, hdone, hcount, -⟩ := writeFrame_kept hunits hu ht
    rw [← hdone, ← hcount]
    exact closeContainer_appends hfits
  · rw [hrun]
    cases ht : writeFrame s.width s.height s.delay u with
    | error e => rfl
    | ok t =>
      obtain ⟨hkept, hdone, hcount, -⟩ := writeFrame_kept hunits hu ht
      rw [andThen_ok, andThen_ok, testCancel, if_neg (by simp [hkept, hcancel]), finishFrame_eq]
      simp only [countFrame, LastFrame, hdone, hcount]

theorem runFrame_of_noRoom (hcancel : s.cancelReq = false)
    (hover : s.params.outCapacity < s.outLen.toNat + (frameBytes s).length) : runFrame s = .error .outOverflow := by
  obtain ⟨u, r, hindexed, hunits, happends, hrun⟩ := runFrame_of_alone hparams hgood hs hw hh hcancel
  rw [hrun, happends.overflows (by rwa [hunits.outLen, hunits.params]), andThen_error]

theorem runFrame_ok (hcancel : s.cancelReq = false)
    (hfits : s.outLen.toNat + (frameBytes s).length ≤ s.params.outCapacity) :
    ∃ u t, Indexed s u ∧ SameButUnits s u ∧ Emits u t (frameBytes s) ∧ runFrame s = .ok (countFrame s t) := by
  obtain ⟨u, r, hindexed, hunits, happends, hrun⟩ := runFrame_of_alone hparams hgood hs hw hh hcancel
  obtain ⟨t, ht, hemits⟩ := happends.fits (by rwa [hunits.outLen, hunits.params])
  exact ⟨u, t, hindexed, hunits, hemits, by rw [hrun, ht, andThen_ok]⟩

end Matching

end Sys2Proof.Machine
end

section
/-! The obligations on FRAME and on a recorded CANCEL. -/

namespace Sys2Proof.Machine

open Reference (frameBytes)

/-! ### The completion of FRAME -/

/-- CANCEL_REQ is 0 while nothing runs. -/
theorem CoreInv.cancelReq_of_idle {s : State} (h : CoreInv s) (hb : s.busy = false) : s.cancelReq = false := by
  cases hcancel : s.cancelReq with
  | false => rfl
  | true => exact nomatch hb.symm.trans (h.cancel hcancel).1

theorem CoreInv.framesDone_lt {s : State} (h : CoreInv s) (hp : s.phase = .opened) :
    s.framesDone.toNat < s.frameCount.toNat := by
  obtain ⟨-, hlt, -⟩ := h.opened hp
  exact hlt

theorem CoreInv.goodDimensions {s : State} (h : CoreInv s) (hp : s.phase = .opened) : GoodDimensions s := by
  obtain ⟨-, -, hgood⟩ := h.opened hp
  exact hgood

/-- FRAMES_DONE is below FRAME_COUNT when a frame is counted, so it does not wrap. -/
theorem toNat_framesDone_succ {n count : Half} (h : n.toNat < count.toNat) : (n + 1).toNat = n.toNat + 1 := by
  have hcount := count.isLt
  rw [BitVec.toNat_add]
  exact Nat.mod_eq_of_lt (by simp; omega)

theorem Emits.byte_out_of_le {s t : State} {bs : List Byte} (h : Emits s t bs) (hs : OutFits s) {x : Nat}
    (hx : t.outLen.toNat ≤ x) : t.byte .out x = s.byte .out x := by
  rw [h.outLen hs] at hx
  rw [h.eq]
  exact (byte_setBytes s .out _ x bs).trans (if_neg (by omega))

/-- A ready FRAME whose body raises an error ends in error entry. -/
theorem exec_frame_of_error {s : State} {k : ErrCode} (h : Ready .opened s)
    (hbody : runFrame (issue .frame s) = .error k) : ∃ t, exec .frame s = .next t ∧ InError k s t :=
  ⟨_, exec_of_body_error (op := .frame) rfl h hbody, (inError_errorEntry k _).of_issue⟩

/-- A running FRAME whose body raises an error ends in error entry. -/
theorem step_of_frame_error {s : State} {k : ErrCode} (h : Completing .frame s) (hbody : runFrame s = .error k) :
    ∃ t, step s = .next t ∧ InError k s t := by
  refine ⟨_, step_of_completing h.running h.alone, ?_⟩
  rw [complete_of_frame h.named, hbody]
  exact inError_errorEntry k s

section ReadyFrame

variable {s : State} (hinv : CoreInv s) (hready : Ready .opened s) (hw : s.frameW = s.width) (hh : s.frameH = s.height)
include hinv hready hw hh

theorem runFrame_issue_of_noRoom (hover : s.params.outCapacity < s.outLen.toNat + (frameBytes s).length) :
    runFrame (issue .frame s) = .error .outOverflow :=
  runFrame_of_noRoom (s := issue .frame s) hinv.params (hinv.goodDimensions hready.inPhase)
    ⟨hinv.outFits.size, hinv.outFits.len⟩ hw hh (hinv.cancelReq_of_idle hready.idle) hover

theorem runFrame_issue_ok (hfits : s.outLen.toNat + (frameBytes s).length ≤ s.params.outCapacity) :
    ∃ u t, Indexed (issue .frame s) t ∧ SameButUnits (issue .frame s) u ∧ Emits u t (frameBytes s) ∧
      runFrame (issue .frame s) = .ok (countFrame s t) := by
  obtain ⟨u, t, hindexed, hunits, hemits, hrun⟩ :=
    runFrame_ok (s := issue .frame s) hinv.params (hinv.goodDimensions hready.inPhase)
      ⟨hinv.outFits.size, hinv.outFits.len⟩ hw hh (hinv.cancelReq_of_idle hready.idle) hfits
  exact ⟨u, t, hindexed.emits hemits, hunits, hemits, hrun⟩

end ReadyFrame

/-- Settles O34: the frame group or the trailer finds no room. -/
theorem frameOverflowsWithoutRoom : Obligations.FrameOverflowsWithoutRoom := by
  unfold Obligations.FrameOverflowsWithoutRoom
  exact fun s hinv hready hw hh hover =>
    exec_frame_of_error hready (runFrame_issue_of_noRoom hinv hready hw hh hover)

/-- Settles O33: FRAME is the units' results, the frame group and the trailer appended, and the frame counted. -/
theorem frameAppendsItsGroup : Obligations.FrameAppendsItsGroup := by
  unfold Obligations.FrameAppendsItsGroup
  intro s hinv hready hw hh hfits n stride cut pal
  obtain ⟨u, t, hindexed, hunits, hemits, hrun⟩ := runFrame_issue_ok hinv hready hw hh hfits
  have hs : OutFits u := hunits.outFits ⟨hinv.outFits.size, hinv.outFits.len⟩
  have hout : u.out = s.out := by rw [hunits]; rfl
  have hkept : t.framesDone = s.framesDone ∧ t.phase = .opened := by
    rw [hemits.frame, hunits]
    exact ⟨rfl, hready.inPhase⟩
  obtain ⟨hdone, hphase⟩ := hkept
  have houtput : t.output = s.output ++ frameBytes s := (hemits.output hs).trans (congrArg (· ++ _) hunits.output)
  have houtLen : t.outLen.toNat = s.outLen.toNat + (frameBytes s).length := by
    rw [hemits.outLen hs, hunits.outLen]
    rfl
  have hframesDone : (t.framesDone + 1).toNat = s.framesDone.toNat + 1 := by
    rw [hdone]
    exact toNat_framesDone_succ (hinv.framesDone_lt hready.inPhase)
  have hphase' : (countFrame s t).phase = if s.framesDone.toNat + 1 = s.frameCount.toNat then .done else .opened := by
    rw [countFrame, hphase]
  have hframe := completion_frame hready.idle (onlyResults_runFrame _ _ hrun)
  refine ⟨_, exec_of_body_ok (op := .frame) rfl hready hrun, houtput, houtLen, hframesDone, hphase', hindexed.stride, ?_,
    hindexed.samples, hindexed.bkt, hindexed.bktCount, hindexed.palette, hindexed.idxLen, hindexed.symbols,
    hindexed.idxRest, hindexed.smpRest, hindexed.palRest, fun x hx => ?_, hframe⟩
  · rw [← show t.stride.toNat = stride from hindexed.stride]
    exact hindexed.smpCount
  · exact (hemits.byte_out_of_le hs hx).trans (byte_of_mem_eq (sp := .out) hout x)

/-- The length of a frame group: headers of 18 bytes, a table of 768, and the stream (rule R276). -/
theorem length_frameGroup (w h d : Half) {budget : Nat} {pixels : List Rgb} :
    (Reference.frameGroup w h d budget pixels).length =
      786 + (Reference.stream 8 (Reference.indices (Reference.palette budget pixels) pixels)).length := by
  have hpal : (Reference.palette budget pixels).length = 256 := length_paletteOf (medianCutOf_end _).1
  have htable := length_flatMap_bytes (Reference.palette budget pixels)
  rw [hpal] at htable
  have hheader : (gifFrameHeader w h d).length = 18 := rfl
  rw [Reference.frameGroup]
  simp only [List.length_append]
  rw [hheader]
  exact congrArg (18 + · + _) htable

/-- Settles O35: the frame group is no longer than the bound of R276, and the trailer is one byte. -/
theorem frameWithRoomSucceeds : Obligations.FrameWithRoomSucceeds := by
  unfold Obligations.FrameWithRoomSucceeds
  intro s hinv hready hw hh hroom
  obtain ⟨hn, -⟩ := framePixels_bounds hinv.params (hinv.goodDimensions hready.inPhase)
  have hlen : (Reference.indices (Reference.palette s.params.sampleBudget (Reference.framePixels s))
      (Reference.framePixels s)).length = s.width.toNat * s.height.toNat := by
    rw [Reference.indices, List.length_map, length_framePixels]
  have hstream := streamLengthBound (Reference.indices (Reference.palette s.params.sampleBudget
    (Reference.framePixels s)) (Reference.framePixels s)) (List.length_pos_iff.mp (hlen ▸ hn))
  have htrailer : (if s.framesDone.toNat + 1 = s.frameCount.toNat then [(0x3B : Byte)] else []).length ≤ 1 := by
    split <;> decide
  have hfits : s.outLen.toNat + (frameBytes s).length ≤ s.params.outCapacity := by
    rw [frameBytes, List.length_append, length_frameGroup]
    rw [hlen] at hstream
    omega
  obtain ⟨t, hexec, -, -, hdone, hphase, -⟩ := frameAppendsItsGroup s hinv hready hw hh hfits
  refine ⟨t, hexec, ?_, hdone⟩
  rw [hphase]
  split <;> decide

/-! ### What the output of FRAME depends on -/

/-- OUT, the phase, the error code and the progress after FRAME, from what they depend on. -/
def frameResult (s : State) : List Byte × Phase × ErrCode × Half :=
  if s.frameW ≠ s.width ∨ s.frameH ≠ s.height then ([], .error, .dimensionMismatch, s.framesDone)
  else if s.params.outCapacity < s.outLen.toNat + (frameBytes s).length then
    ([], .error, .outOverflow, s.framesDone)
  else
    (s.output ++ frameBytes s, if s.framesDone.toNat + 1 = s.frameCount.toNat then .done else .opened, .noError,
      s.framesDone + 1)

theorem InError.output_nil {k : ErrCode} {s t : State} (h : InError k s t) : t.output = [] := by
  rw [State.output, h.output]
  rfl

theorem InError.framesDone {k : ErrCode} {s t : State} (h : InError k s t) : t.framesDone = s.framesDone := by
  rw [h.kept]

theorem InError.result {k : ErrCode} {s t : State} (h : InError k s t) :
    (t.output, t.phase, t.errCode, t.framesDone) = ([], .error, k, s.framesDone) := by
  rw [h.output_nil, h.phase, h.code, h.framesDone]

theorem result_of_exec_frame {s t : State} (hinv : CoreInv s) (hready : Ready .opened s)
    (h : exec .frame s = .next t) : (t.output, t.phase, t.errCode, t.framesDone) = frameResult s := by
  have hnext : ∀ u, exec .frame s = .next u → u = t := fun u hu => Host.Outcome.next.inj (hu.symm.trans h)
  by_cases hne : s.frameW ≠ s.width ∨ s.frameH ≠ s.height
  · obtain ⟨u, hu, herror⟩ := frameDimensionMismatch s hready hne
    obtain rfl := hnext u hu
    rw [frameResult, if_pos hne, herror.result]
  · obtain ⟨hw, hh⟩ : s.frameW = s.width ∧ s.frameH = s.height := by simpa using hne
    by_cases hover : s.params.outCapacity < s.outLen.toNat + (frameBytes s).length
    · obtain ⟨u, hu, herror⟩ := frameOverflowsWithoutRoom s hinv hready hw hh hover
      obtain rfl := hnext u hu
      rw [frameResult, if_neg hne, if_pos hover, herror.result]
    · obtain ⟨u, hu, houtput, -, hdone, hphase, hrest⟩ :=
        frameAppendsItsGroup s hinv hready hw hh (Nat.le_of_not_lt hover)
      obtain rfl := hnext u hu
      obtain ⟨-, -, -, -, -, -, -, -, -, -, -, -, hframe⟩ := hrest
      have hcode : u.errCode = .noError := by
        rw [hframe]
        exact (hinv.errClear (by rw [hready.inPhase]; decide)).1
      have hdone' : u.framesDone = s.framesDone + 1 := BitVec.eq_of_toNat_eq <| by
        rw [hdone, toNat_framesDone_succ (hinv.framesDone_lt hready.inPhase)]
      rw [frameResult, if_neg hne, if_neg hover, houtput, hphase, hcode, hdone']

theorem length_output (s : State) : s.output.length = s.outLen.toNat := by
  simp [State.output]

/-- Settles O36: every part of the result is a function of what the two states agree in. -/
theorem frameDependsOnItsPixelsOnly : Obligations.FrameDependsOnItsPixelsOnly := by
  unfold Obligations.FrameDependsOnItsPixelsOnly
  intro s s' t t' hinv hinv' hready hready' hparams hwidth hheight hdelay hframeW hframeH hcount hdone houtput hpixel ht
    ht'
  have hpixels : Reference.framePixels s' = Reference.framePixels s := by
    rw [Reference.framePixels, Reference.framePixels, hwidth, hheight]
    exact List.map_congr_left fun p hp => hpixel p (List.mem_range.mp hp)
  have hbytes : frameBytes s' = frameBytes s := by
    rw [frameBytes, frameBytes, hwidth, hheight, hdelay, hparams, hpixels, hdone, hcount]
  have houtLen : s'.outLen.toNat = s.outLen.toNat := by rw [← length_output, ← length_output, houtput]
  have hresult : frameResult s' = frameResult s := by
    rw [frameResult, frameResult, hframeW, hframeH, hwidth, hheight, hparams, houtLen, hbytes, houtput, hdone, hcount]
  have h := (result_of_exec_frame hinv' hready' ht').trans (hresult.trans (result_of_exec_frame hinv hready ht).symm)
  simpa only [Prod.mk.injEq] using h

/-! ### A recorded CANCEL -/

/-- Settles O31: the errors of BEGIN and FRAME are raised before CANCEL_REQ is tested, and the trailer is written
after. -/
theorem cancelRequestActsAtCompletion : Obligations.CancelRequestActsAtCompletion := by
  unfold Obligations.CancelRequestActsAtCompletion
  intro s hinv hcancel
  have hopened : Completing .frame s → s.phase = .opened := fun h =>
    (hinv.running h.running).trans (if_pos h.named)
  refine ⟨fun h => ?_, fun h hne => step_of_frame_error h (runFrame_of_mismatch hne), fun h hw hh hfits => ?_,
    fun h hw hh hover => ?_⟩
  · have hidle : s.phase = .idle := (hinv.running h.running).trans (if_neg (by rw [h.named]; decide))
    have hzero : { s with framesDone := 0 } = s := by rw [← hinv.idle hidle]
    have herror : ∀ k, runBegin (startConversion s) = .error k → ∃ t, step s = .next t ∧ InError k s t := by
      intro k hbody
      refine ⟨_, step_of_completing h.running h.alone, ?_⟩
      rw [complete_of_begin h.named, hbody]
      exact hzero ▸ (inError_errorEntry k (startConversion s)).of_startConversion
    refine herror _ ?_
    split
    · next hempty => exact runBegin_of_empty hempty
    · next hcount =>
      split
      · next hgood =>
        exact runBegin_of_cancelReq (outFits_startConversion hinv.params) (room_startConversion hinv.params) hcount hgood
          hcancel
      · next hbad => exact runBegin_of_bad hcount hbad
  · exact step_of_frame_error h
      (runFrame_of_cancelReq hinv.params (hinv.goodDimensions (hopened h)) hinv.outFits hw hh hcancel hfits)
  · exact step_of_frame_error h
      (runFrame_of_overflow hinv.params (hinv.goodDimensions (hopened h)) hinv.outFits hw hh hover)

end Sys2Proof.Machine
end

section
/-! SUPPORT. What a command that runs can end in: an error with a code of its own, or one of six results (rules R122,
R131, R144, R162, R207, R208). -/

namespace Sys2Proof.Machine

open Reference (frameBytes)

/-! ### The errors -/

/-- The run raises no error, or one with a code of its own (rule R231). -/
def Coded (r : Except ErrCode State) : Prop := ∀ e, r = .error e → e ≠ .noError

theorem Coded.ok (t : State) : Coded (.ok t) := nofun

theorem Coded.error {e : ErrCode} (h : e ≠ .noError) : Coded (.error e) := by
  rintro _ ⟨⟩
  exact h

theorem Coded.andThen {r : Except ErrCode State} {f : State → Except ErrCode State} (hr : Coded r)
    (hf : ∀ t, Coded (f t)) : Coded (andThen r f) := by
  intro e he
  rcases andThen_eq_error.mp he with he | ⟨t, -, he⟩
  · exact hr e he
  · exact hf t e he

theorem Coded.ite {p : Prop} [Decidable p] {r r' : Except ErrCode State} (hr : Coded r) (hr' : Coded r') :
    Coded (if p then r else r') := by
  split
  · exact hr
  · exact hr'

theorem OnlyOverflows.coded {r : Except ErrCode State} (h : OnlyOverflows r) : Coded r := by
  intro e he
  rw [h e he]
  decide

theorem coded_lzwPass (sym : Byte) (s : State) : Coded (lzwPass sym s) := by
  have hput : ∀ c w t, Coded (putCode c w t) := fun c w t => (onlyOverflows_putCode c w t).coded
  refine .ite (.error (by decide)) ?_
  split
  · exact .ok _
  · exact .andThen (.andThen (hput _ _ s) fun t => .ite (.ok _) (.andThen (hput _ _ t) fun _ => .ok _)) fun _ => .ok _

theorem coded_lzwLoop (syms : List Byte) (s : State) : Coded (lzwLoop syms s) := by
  induction syms generalizing s with
  | nil => exact .ok s
  | cons sym syms ih => exact .andThen (coded_lzwPass sym s) ih

theorem coded_encodeSymbols (syms : List Byte) (s : State) : Coded (encodeSymbols syms s) := by
  cases syms with
  | nil => exact (onlyOverflows_endStream s).coded
  | cons sym syms =>
    exact .ite (.error (by decide)) (.andThen (coded_lzwLoop syms _) fun t =>
      .andThen (onlyOverflows_putCode _ _ t).coded fun u => (onlyOverflows_endStream u).coded)

theorem coded_lzwStream (depth n : Nat) (s : State) : Coded (lzwStream depth n s) :=
  .andThen (onlyOverflows_openStream depth s).coded (coded_encodeSymbols _)

theorem coded_testCancel {f : State → Except ErrCode State} {s : State} (h : Coded (f s)) : Coded (testCancel f s) :=
  .ite (.error (by decide)) h

theorem coded_runBegin (s : State) : Coded (runBegin s) := by
  have hout : ∀ bs t, Coded (outBytes bs t) := fun bs t => (onlyOverflows_outBytes bs t).coded
  refine .ite (.error (by decide)) (.ite (.error (by decide)) (.andThen ?_ fun t => coded_testCancel (.ok _)))
  exact .andThen (hout _ s) fun t => .andThen (hout _ t) (hout _)

theorem coded_runFrame (s : State) : Coded (runFrame s) := by
  have hout : ∀ bs t, Coded (outBytes bs t) := fun bs t => (onlyOverflows_outBytes bs t).coded
  have hfinish : ∀ t, Coded (finishFrame t) := fun t =>
    .ite (.andThen (onlyOverflows_outByte _ t).coded fun _ => .ok _) (.ok _)
  refine .ite (.error (by decide)) (.andThen ?_ fun t => coded_testCancel (hfinish t))
  exact .andThen (hout _ _) fun t => .andThen (hout _ t) fun u => .andThen (hout _ u) (coded_lzwStream 8 _)

theorem coded_bodyOf (s : State) : Coded (bodyOf s).2 := by
  rw [bodyOf]
  cases s.curOp with
  | begin => exact coded_runBegin _
  | frame => exact coded_runFrame s
  | sample => exact .ite (.error (by decide)) (.ok _)
  | mcut => exact .ok _
  | index => exact .ite (.error (by decide)) (.ok _)
  | lzw depth => exact coded_lzwStream _ _ _

/-! ### The results -/

/-- What the body of a running command can leave when it raises no error. -/
inductive Completed (s : State) : State → Prop
  | begin (t : State) : s.curOp = .begin → s.cancelReq = false → s.frameCount ≠ 0 → GoodDimensions s →
      Emits (startConversion s) t (gifHeader s.width s.height) → Completed s { t with phase := .opened }
  | frame (u t : State) : s.curOp = .frame → s.cancelReq = false → Indexed s u → SameButUnits s u →
      Emits u t (frameBytes s) → Completed s (countFrame s t)
  | sample : s.curOp = .sample → s.framePixels ≤ s.params.maxPixels → Completed s (sampleFrame s.framePixels s)
  | mcut : s.curOp = .mcut → Completed s (medianCut s)
  | index : s.curOp = .index → s.framePixels ≤ s.params.maxPixels → Completed s (indexFrame s.framePixels s)
  | lzw (d : BitVec 4) (bs : List Byte) (t : State) : s.curOp = .lzw d → Emits (dropOutput s) t bs → Completed s t

theorem completed_of_runBegin {s t : State} (hop : s.curOp = .begin) (hparams : s.params.wf)
    (h : runBegin (startConversion s) = .ok t) : Completed s t := by
  have hs := outFits_startConversion hparams
  have hroom := room_startConversion hparams
  by_cases hcount : s.frameCount = 0
  · exact nomatch (runBegin_of_empty (s := startConversion s) hcount).symm.trans h
  · by_cases hgood : GoodDimensions s
    · cases hcancel : s.cancelReq with
      | true => exact nomatch (runBegin_of_cancelReq hs hroom hcount hgood hcancel).symm.trans h
      | false =>
        obtain ⟨u, hemits, hrun⟩ := runBegin_ok hs hroom hcount hgood hcancel
        obtain rfl := Except.ok.inj (hrun.symm.trans h)
        exact .begin u hop hcancel hcount hgood hemits
    · exact nomatch (runBegin_of_bad (s := startConversion s) hcount hgood).symm.trans h

theorem completed_of_runFrame {s t : State} (hop : s.curOp = .frame) (hparams : s.params.wf)
    (hgood : GoodDimensions s) (hs : OutFits s) (h : runFrame s = .ok t) : Completed s t := by
  by_cases hne : s.frameW ≠ s.width ∨ s.frameH ≠ s.height
  · exact nomatch (runFrame_of_mismatch hne).symm.trans h
  · obtain ⟨hw, hh⟩ : s.frameW = s.width ∧ s.frameH = s.height := by simpa using hne
    cases hcancel : s.cancelReq with
    | true =>
      rcases Nat.lt_or_ge s.params.outCapacity (s.outLen.toNat + (Reference.frameGroup s.width s.height s.delay
        s.params.sampleBudget (Reference.framePixels s)).length) with hover | hfits
      · exact nomatch (runFrame_of_overflow hparams hgood hs hw hh hover).symm.trans h
      · exact nomatch (runFrame_of_cancelReq hparams hgood hs hw hh hcancel hfits).symm.trans h
    | false =>
      rcases Nat.lt_or_ge s.params.outCapacity (s.outLen.toNat + (frameBytes s).length) with hover | hfits
      · exact nomatch (runFrame_of_noRoom hparams hgood hs hw hh hcancel hover).symm.trans h
      · obtain ⟨u, v, hindexed, hunits, hemits, hrun⟩ := runFrame_ok hparams hgood hs hw hh hcancel hfits
        obtain rfl := Except.ok.inj (hrun.symm.trans h)
        exact .frame u v hop hcancel hindexed hunits hemits

/-- Everything a running command can leave when it raises no error. -/
theorem completed_of_bodyOf {s t : State} (hinv : CoreInv s) (hb : s.busy = true) (h : (bodyOf s).2 = .ok t) :
    Completed s t := by
  have hphase := hinv.running hb
  rw [bodyOf] at h
  cases hop : s.curOp with
  | begin =>
    rw [hop] at h
    exact completed_of_runBegin hop hinv.params h
  | frame =>
    rw [hop] at h hphase
    exact completed_of_runFrame hop hinv.params (hinv.goodDimensions (hphase.trans (if_pos rfl))) hinv.outFits h
  | sample =>
    rw [hop] at h
    rcases Nat.lt_or_ge s.params.maxPixels s.framePixels with hlarge | hfits
    · exact nomatch (runSample_of_large hlarge).symm.trans h
    · obtain rfl := Except.ok.inj ((if_neg (Nat.not_lt.mpr hfits)).symm.trans h)
      exact .sample hop hfits
  | mcut =>
    rw [hop] at h
    cases h
    exact .mcut hop
  | index =>
    rw [hop] at h
    rcases Nat.lt_or_ge s.params.maxPixels s.framePixels with hlarge | hfits
    · exact nomatch (runIndex_of_large hlarge).symm.trans h
    · obtain rfl := Except.ok.inj ((if_neg (Nat.not_lt.mpr hfits)).symm.trans h)
      exact .index hop hfits
  | lzw d =>
    rw [hop] at h
    obtain ⟨bs, hemits⟩ :=
      onlyEmits_lzwStream d.toNat s.idxLen.toNat (dropOutput s) t ⟨hinv.outFits.size, Nat.zero_le _⟩ h
    exact .lzw d bs t hop hemits

/-- Everything the completion of a running command can be. -/
theorem complete_cases_of_coreInv {s : State} (hinv : CoreInv s) (hb : s.busy = true) :
    (∃ t, Completed s t ∧ SameButResults s t ∧ complete s = { forgetWorking t with busy := false }) ∨
      (∃ k, k ≠ .noError ∧ s.curOp ≠ .mcut ∧ complete s = errorEntry k (bodyOf s).1) := by
  rcases complete_cases s with ⟨t, ht, hc⟩ | ⟨k, hk, hc⟩
  · exact .inl ⟨t, completed_of_bodyOf hinv hb ht, onlyResults_bodyOf s t ht, hc⟩
  · refine .inr ⟨k, coded_bodyOf s k hk, fun hop => ?_, hc⟩
    rw [bodyOf, hop] at hk
    cases hk

end Sys2Proof.Machine
end

section
/-! SUPPORT. The invariant of the registers, in its two parts: the bounds of the counts, and the phase with the progress
of the conversion (rule R46). -/

namespace Sys2Proof.Machine

/-- The counts within their bounds, and the live entries of BKT (rules R39, R46). -/
structure CountsInv (s : State) : Prop where
  outLen : s.outLen.toNat ≤ s.params.outCapacity
  smpCount : s.smpCount.toNat ≤ s.params.sampleBudget
  idxLen : s.idxLen.toNat ≤ s.params.maxPixels
  bktCount : s.bktCount.toNat ≤ 256
  bkt : s.bkt.length = s.bktCount.toNat
  bktRange : ∀ bk ∈ s.bkt, bk.start ≤ s.params.sampleBudget ∧ bk.len ≤ s.params.sampleBudget

/-- The phase and the progress of the conversion outside phase ERROR (rule R46, items 4 and 5). -/
structure PhaseInv (s : State) : Prop where
  noError : s.phase ≠ .error
  idle : s.phase = .idle → s.framesDone = 0
  opened : s.phase = .opened →
    1 ≤ s.frameCount.toNat ∧ s.framesDone.toNat < s.frameCount.toNat ∧ GoodDimensions s
  done : s.phase = .done → s.framesDone = s.frameCount ∧ 1 ≤ s.frameCount.toNat

theorem CoreInv.counts {s : State} (h : CoreInv s) : CountsInv s :=
  ⟨h.outLen, h.smpCount, h.idxLen, h.bktCount, h.bkt, h.bktRange⟩

theorem PhaseInv.of_idle {s : State} (hp : s.phase = .idle) (hdone : s.framesDone = 0) : PhaseInv s where
  noError h := nomatch hp.symm.trans h
  idle _ := hdone
  opened h := nomatch hp.symm.trans h
  done h := nomatch hp.symm.trans h

theorem PhaseInv.of_opened {s : State} (hp : s.phase = .opened)
    (hopened : 1 ≤ s.frameCount.toNat ∧ s.framesDone.toNat < s.frameCount.toNat ∧ GoodDimensions s) : PhaseInv s where
  noError h := nomatch hp.symm.trans h
  idle h := nomatch hp.symm.trans h
  opened _ := hopened
  done h := nomatch hp.symm.trans h

theorem PhaseInv.of_done {s : State} (hp : s.phase = .done)
    (hdone : s.framesDone = s.frameCount ∧ 1 ≤ s.frameCount.toNat) : PhaseInv s where
  noError h := nomatch hp.symm.trans h
  idle h := nomatch hp.symm.trans h
  opened h := nomatch hp.symm.trans h
  done _ := hdone

/-! ### The results of the commands -/

theorem CountsInv.emits {s t : State} {bs : List Byte} (hs : OutFits s) (h : CountsInv s) (hemits : Emits s t bs) :
    CountsInv t := by
  have hout := (hemits.outFits hs).len
  rw [hemits.params] at hout
  rw [hemits.frame]
  exact { h with outLen := hout }

/-- The buckets of MedianCut: at most 256, and each within the samples. -/
theorem bktRange_medianCutOf {samples : List Rgb} {n : Nat} (h : samples.length ≤ n) :
    ∀ bk ∈ (medianCutOf samples).buckets, bk.start ≤ n ∧ bk.len ≤ n := by
  intro bk hbk
  obtain ⟨-, hle⟩ := (cutInv_medianCutOf samples).partitions.bounds bk hbk
  omega

theorem CountsInv.sampleFrame {s : State} (h : CountsInv s) (hparams : s.params.wf)
    (hfits : s.framePixels ≤ s.params.maxPixels) : CountsInv (sampleFrame s.framePixels s) := by
  obtain ⟨hbudget, -, hmax, -, -⟩ := hparams
  have hsmall : s.framePixels < 2 ^ 32 := (hfits.trans hmax).trans_lt (by decide)
  have hcount : (Machine.sampleFrame s.framePixels s).smpCount.toNat ≤ s.params.sampleBudget := by
    rcases Nat.eq_zero_or_pos s.framePixels with hzero | hpos
    · rw [hzero, sampleFrame_zero]
      exact Nat.zero_le _
    · obtain ⟨-, -, -, hbound, -⟩ := sampleFrame_spec hpos hbudget hsmall
      exact hbound
  rw [sampleFrame_frame]
  exact { h with smpCount := hcount }

theorem CountsInv.medianCut {s : State} (h : CountsInv s) : CountsInv (medianCut s) := by
  have hcount := medianCut_bktCount s
  have hbkt := medianCut_bkt s
  have hrange := bktRange_medianCutOf (samples := s.samples) ((length_samples s).trans_le h.smpCount)
  have hle := (medianCutOf_end s.samples).1
  have hframe := medianCut_frame s
  generalize Machine.medianCut s = t at hcount hbkt hframe
  rw [← hbkt] at hcount hrange hle
  rw [hframe]
  exact { h with bktCount := hcount ▸ hle, bkt := hcount.symm, bktRange := hrange }

theorem CountsInv.indexFrame {s : State} (h : CountsInv s) (hparams : s.params.wf)
    (hfits : s.framePixels ≤ s.params.maxPixels) : CountsInv (indexFrame s.framePixels s) := by
  obtain ⟨-, -, hmax, -, -⟩ := hparams
  have hsmall : s.framePixels < 2 ^ 32 := (hfits.trans hmax).trans_lt (by decide)
  exact { h with idxLen := (indexFrame_idxLen hsmall s).trans_le hfits }

/-- What the units of FRAME leave is within the bounds. -/
theorem CountsInv.units {s u : State} (h : CountsInv s) (hgood : GoodDimensions s) (hunits : SameButUnits s u)
    (hindexed : Indexed s u) : CountsInv u := by
  obtain ⟨-, -, -, -, hfits⟩ := hgood
  have hsamples := hindexed.samples
  have hbkt := hindexed.bkt
  have hcount := hindexed.bktCount
  rw [Reference.frameCut] at hsamples hbkt hcount
  generalize Reference.everyNth _ _ = samples at hsamples hbkt hcount
  have hlen : samples.length = u.smpCount.toNat := by rw [← length_samples_medianCutOf, ← hsamples, length_samples]
  have hrange := bktRange_medianCutOf (hlen.trans_le hindexed.smpBound)
  have hle := (medianCutOf_end samples).1
  rw [← hbkt] at hrange hcount hle
  rw [hunits]
  exact
    { h with
      smpCount := hindexed.smpBound
      idxLen := hindexed.idxLen.trans_le hfits
      bktCount := hcount ▸ hle
      bkt := hcount.symm
      bktRange := hrange }

/-! ### Completion -/

/-- A command that raises no error leaves the two parts of the invariant, and no recorded CANCEL. -/
theorem Completed.invariant {s t : State} (hinv : CoreInv s) (hb : s.busy = true) (h : Completed s t) :
    s.cancelReq = false ∧ CountsInv t ∧ PhaseInv t := by
  have hphase := hinv.running hb
  have hidle : s.curOp ≠ .frame → s.phase = .idle ∧ s.framesDone = 0 := fun hop =>
    ⟨hphase.trans (if_neg hop), hinv.idle (hphase.trans (if_neg hop))⟩
  have hcancel : s.curOp ≠ .begin → s.curOp ≠ .frame → s.cancelReq = false := fun hbegin hframe =>
    Bool.eq_false_iff.mpr fun hreq => (hinv.cancel hreq).2.elim hbegin hframe
  cases h with
  | begin u hop hcancel hcount hgood hemits =>
    have hcounts : CountsInv (startConversion s) := { hinv.counts with outLen := Nat.zero_le _ }
    have hu := hcounts.emits (outFits_startConversion hinv.params) hemits
    refine ⟨hcancel, { hu with }, ?_⟩
    rw [hemits.frame]
    have hpos : 0 < s.frameCount.toNat := Nat.pos_of_ne_zero fun h => hcount (BitVec.eq_of_toNat_eq h)
    exact .of_opened rfl ⟨hpos, hpos, hgood⟩
  | frame u v hop hcancel hindexed hunits hemits =>
    have hopened : s.phase = .opened := hphase.trans (if_pos hop)
    obtain ⟨hone, hlt, hgood⟩ := hinv.opened hopened
    have hu := hinv.counts.units hgood hunits hindexed
    have hv := hu.emits (hunits.outFits hinv.outFits) hemits
    have hsucc := toNat_framesDone_succ hlt
    refine ⟨hcancel, { hv with }, ?_⟩
    rw [hemits.frame, hunits]
    by_cases hlast : LastFrame s
    · exact .of_done (if_pos hlast) ⟨BitVec.eq_of_toNat_eq (hsucc.trans hlast), hone⟩
    · exact .of_opened ((if_neg hlast).trans hopened) ⟨hone, hsucc.trans_lt (lt_of_le_of_ne hlt hlast), hgood⟩
  | sample hop hfits =>
    obtain ⟨hp, hdone⟩ := hidle (by simp [hop])
    refine ⟨hcancel (by simp [hop]) (by simp [hop]), hinv.counts.sampleFrame hinv.params hfits, ?_⟩
    rw [sampleFrame_frame]
    exact .of_idle hp hdone
  | mcut hop =>
    obtain ⟨hp, hdone⟩ := hidle (by simp [hop])
    refine ⟨hcancel (by simp [hop]) (by simp [hop]), hinv.counts.medianCut, ?_⟩
    rw [medianCut_frame]
    exact .of_idle hp hdone
  | index hop hfits =>
    obtain ⟨hp, hdone⟩ := hidle (by simp [hop])
    exact ⟨hcancel (by simp [hop]) (by simp [hop]), hinv.counts.indexFrame hinv.params hfits,
      .of_idle hp hdone⟩
  | lzw d bs u hop hemits =>
    obtain ⟨hp, hdone⟩ := hidle (by simp [hop])
    have hcounts : CountsInv (dropOutput s) := { hinv.counts with outLen := Nat.zero_le _ }
    have hs : OutFits (dropOutput s) := ⟨hinv.outFits.size, Nat.zero_le _⟩
    refine ⟨hcancel (by simp [hop]) (by simp [hop]), hcounts.emits hs hemits, ?_⟩
    rw [hemits.frame]
    exact .of_idle hp hdone

theorem SameButResults.errors {s t : State} (h : SameButResults s t) :
    t.errCode = s.errCode ∧ t.errFrame = s.errFrame ∧ t.cancelReq = s.cancelReq := by
  rw [h]
  exact ⟨rfl, rfl, rfl⟩

/-- A completion without an error keeps the invariant. -/
theorem CoreInv.of_completed {s t : State} (hinv : CoreInv s) (hb : s.busy = true) (hres : SameButResults s t)
    (h : Completed s t) : CoreInv { forgetWorking t with busy := false } := by
  obtain ⟨hcancel, hcounts, hphase⟩ := h.invariant hinv hb
  obtain ⟨hcode, hframe, hreq⟩ := hres.errors
  have hrunning : s.phase ≠ .error := by
    rw [hinv.running hb]
    split <;> decide
  exact
    { hcounts, hphase with
      params := hres.params ▸ hinv.params
      errClear := fun _ => (hinv.errClear hrunning).imp hcode.trans hframe.trans
      errHeld := fun herror => absurd herror hphase.noError
      cancel := fun h => nomatch (hreq.trans hcancel).symm.trans h
      running := nofun
      depth := nofun }

/-- Error entry meets the invariant, whatever the state (rule R236). -/
theorem coreInv_errorEntry {k : ErrCode} (hk : k ≠ .noError) {s : State} (hparams : s.params.wf) :
    CoreInv (errorEntry k s) := by
  have h := inError_errorEntry k s
  refine
    { h with
      params := hparams
      errClear := fun hp => absurd rfl hp
      errHeld := fun _ => ⟨hk, rfl⟩
      cancel := nofun
      running := nofun
      depth := nofun
      idle := nofun
      opened := nofun
      done := nofun
      outLen := Nat.zero_le _
      bktRange := fun bk hbk => ?_ }
  obtain ⟨b, -, rfl⟩ := List.mem_map.mp (errorEntry_bkt k s ▸ hbk)
  exact ⟨freeBucket_start_le s b, freeBucket_len_le s b⟩

theorem CoreInv.complete {s : State} (hinv : CoreInv s) (hb : s.busy = true) : CoreInv (complete s) := by
  rcases complete_cases_of_coreInv hinv hb with ⟨t, ht, hres, hc⟩ | ⟨k, hk, -, hc⟩ <;> rw [hc]
  · exact hinv.of_completed hb hres ht
  · exact coreInv_errorEntry hk ((sameButResults_bodyOf s).params ▸ hinv.params)

/-! ### The other changes -/

theorem CoreInv.of_queue {s : State} (h : CoreInv s) (queue : List HostEvent) : CoreInv { s with queue := queue } :=
  { h with }

/-- A legal command that is issued meets the invariant while it runs (rule R24). -/
theorem CoreInv.issue {op : IssuedOp} {s : State} (h : CoreInv s) (hb : s.busy = false) (hwf : op.instr.wf = true)
    (hp : s.phase = op.legalPhase) : CoreInv (issue op s) where
  params := h.params
  errClear := h.errClear
  errHeld := h.errHeld
  cancel hreq := nomatch (h.cancelReq_of_idle hb).symm.trans hreq
  running _ := hp
  depth d _ hop := by
    obtain rfl : op = .lzw d := hop
    simpa [IssuedOp.instr, Instr.wf] using hwf
  idle := h.idle
  opened := h.opened
  done := h.done
  outLen := h.outLen
  smpCount := h.smpCount
  idxLen := h.idxLen
  bktCount := h.bktCount
  bkt := h.bkt
  bktRange := h.bktRange

/-- The command that completes in a step meets the invariant while it runs, issued before or in this step. -/
theorem CoreInv.issue_of_runs {op : IssuedOp} {s : State} (h : CoreInv s) (queue : List HostEvent) (hruns : Runs op s)
    (hlegal : s.busy = false → op.instr.wf = true ∧ s.phase = op.legalPhase) :
    CoreInv (Machine.issue op { s with queue := queue }) := by
  rcases hruns with ⟨hb, -, rfl⟩ | ⟨hb, -⟩
  · have hrunning := issue_of_running (s := { s with queue := queue }) hb
    exact hrunning.symm ▸ h.of_queue queue
  · obtain ⟨hwf, hp⟩ := hlegal hb
    exact (h.of_queue queue).issue hb hwf hp

/-- What a register write changes keeps the invariant: the configuration is written in phase IDLE only. -/
theorem CoreInv.writeField {s : State} (h : CoreInv s) (c : Csr) (v : Word) : CoreInv (writeField c v s) := by
  rcases writeField_cases c v s with ⟨fw, fh, e⟩ | ⟨hp, w, ht, d, n, e⟩ | ⟨-, n, hn, e⟩ | ⟨-, n, hn, e⟩ <;> rw [e]
  · exact { h with }
  · exact { h with opened := fun ho => (nomatch hp.symm.trans ho), done := fun hd => (nomatch hp.symm.trans hd) }
  · exact { h with smpCount := hn }
  · exact { h with idxLen := hn }

theorem CoreInv.storeBytes {s : State} (h : CoreInv s) (sp : Space) (bs : List Byte) (a : Nat) :
    CoreInv (storeBytes sp a bs s) := by
  rw [sameButStores_storeBytes sp bs a s]
  exact { h with }

theorem CoreInv.backToIdle {s : State} (h : CoreInv s) (hb : s.busy = false) : CoreInv (backToIdle s) :=
  { h with
    errClear := fun _ => ⟨rfl, rfl⟩
    errHeld := nofun
    cancel := nofun
    running := fun hrun => nomatch hb.symm.trans hrun
    depth := fun _ hrun => nomatch hb.symm.trans hrun
    idle := fun _ => rfl
    opened := nofun
    done := nofun
    outLen := Nat.zero_le _ }

theorem CoreInv.hardwareReset {s : State} (h : CoreInv s) : CoreInv (hardwareReset s) where
  params := h.params
  errClear _ := ⟨rfl, rfl⟩
  errHeld := nofun
  cancel := nofun
  running := nofun
  depth := nofun
  idle _ := rfl
  opened := nofun
  done := nofun
  outLen := Nat.zero_le _
  smpCount := Nat.zero_le _
  idxLen := Nat.zero_le _
  bktCount := Nat.zero_le _
  bkt := rfl
  bktRange := nofun

end Sys2Proof.Machine
end

section
/-! The obligation on the invariant of the registers. -/

namespace Sys2Proof.Machine

/-- Settles O15: every change a step can be keeps the invariant. -/
theorem stepKeepsCoreInvariant : Obligations.StepKeepsCoreInvariant := by
  unfold Obligations.StepKeepsCoreInvariant
  intro s t hinv hstep
  obtain ⟨queue, hchange⟩ := change_of_step hstep
  have hqueue := hinv.of_queue queue
  cases hchange with
  | same => exact hqueue
  | rejected => exact { hqueue with }
  | read data draws => exact { hqueue with }
  | field c v hb => exact hqueue.writeField c v
  | stored sp a bs hb => exact hqueue.storeBytes sp bs a
  | recorded hb hop => exact { hqueue with cancel := fun _ => ⟨hb, cancellable_eq_true_iff.mp hop⟩ }
  | cancelled hwritten hp => exact coreInv_errorEntry (by decide) hqueue.params
  | cleared hwritten =>
    obtain ⟨hb, -⟩ := hwritten
    exact hqueue.backToIdle hb
  | reset rest harrives => exact hqueue.hardwareReset
  | issued op hwf hb hp => exact hqueue.issue hb hwf hp
  | completed op hruns hlegal => exact (hinv.issue_of_runs queue hruns hlegal).complete rfl

end Sys2Proof.Machine
end

section
/-! SUPPORT. The output of the commands in the grammar of the container (rules R95 to R102). -/

namespace Sys2Proof.Machine

/-- The bytes of a stream of depth 8 are ImageData (rule R101). -/
theorem isImageData_stream (symbols : List Byte) : IsImageData (Reference.stream 8 symbols) := by
  rw [Reference.stream, subBlocks_eq]
  exact ⟨_, fun b hb => length_of_mem_chunks (by decide) hb,
    fun b hb => length_of_mem_dropLast_chunks (by decide) hb, rfl⟩

theorem isFrameGroup_frameGroup (w h d : Half) (budget : Nat) (pixels : List Rgb) :
    IsFrameGroup w h d (Reference.frameGroup w h d budget pixels) := by
  have hpal : (Reference.palette budget pixels).length = 256 := length_paletteOf (medianCutOf_end _).1
  have htable := length_flatMap_bytes (Reference.palette budget pixels)
  rw [hpal] at htable
  exact ⟨_, _, htable, isImageData_stream _, rfl⟩

theorem isContainerPrefix_header (w h d : Half) : IsContainerPrefix w h d 0 (gifHeader w h) :=
  ⟨[], rfl, nofun, (List.append_nil _).symm⟩

theorem IsContainerPrefix.append {w h d : Half} {k : Nat} {bytes group : List Byte}
    (hprefix : IsContainerPrefix w h d k bytes) (hgroup : IsFrameGroup w h d group) :
    IsContainerPrefix w h d (k + 1) (bytes ++ group) := by
  obtain ⟨groups, rfl, hgroups, rfl⟩ := hprefix
  refine ⟨groups ++ [group], by simp, fun g hg => ?_, by simp⟩
  rcases List.mem_append.mp hg with hg | hg
  · exact hgroups g hg
  · exact List.mem_singleton.mp hg ▸ hgroup

/-! ### The conversion at a completion -/

/-- What a command that raises no error does to the conversion: BEGIN opens it, FRAME adds a frame, the others stay in
phase IDLE. -/
inductive Conversion (s t : State) : Prop
  | begun : s.curOp = .begin → t.phase = .opened → t.framesDone.toNat = 0 → t.output = gifHeader s.width s.height →
      Conversion s t
  | counted : s.curOp = .frame → t.phase = (if LastFrame s then .done else .opened) →
      t.framesDone.toNat = s.framesDone.toNat + 1 → t.output = s.output ++ Reference.frameBytes s → Conversion s t
  | none : s.curOp ≠ .begin → s.curOp ≠ .frame → t.phase = .idle → Conversion s t

theorem Completed.conversion {s t : State} (hinv : CoreInv s) (hb : s.busy = true) (h : Completed s t) :
    Conversion s t := by
  have hphase := hinv.running hb
  have hidle : s.curOp ≠ .frame → s.phase = .idle := fun hop => hphase.trans (if_neg hop)
  cases h with
  | begin u hop hcancel hcount hgood hemits =>
    have houtput := (hemits.output (outFits_startConversion hinv.params)).trans (List.nil_append _)
    have hzero : u.framesDone = 0 := by rw [hemits.frame]; rfl
    exact .begun hop rfl (congrArg BitVec.toNat hzero) houtput
  | frame u v hop hcancel hindexed hunits hemits =>
    have hopened : s.phase = .opened := hphase.trans (if_pos hop)
    have houtput := (hemits.output (hunits.outFits hinv.outFits)).trans (congrArg (· ++ _) hunits.output)
    have hkept : v.framesDone = s.framesDone ∧ v.phase = .opened := by
      rw [hemits.frame, hunits]
      exact ⟨rfl, hopened⟩
    obtain ⟨hdone, hp⟩ := hkept
    refine .counted hop (by rw [countFrame, hp]) ?_ houtput
    rw [countFrame, hdone]
    exact toNat_framesDone_succ (hinv.framesDone_lt hopened)
  | sample hop hfits =>
    refine .none (by simp [hop]) (by simp [hop]) ?_
    rw [sampleFrame_frame]
    exact hidle (by simp [hop])
  | mcut hop =>
    refine .none (by simp [hop]) (by simp [hop]) ?_
    rw [medianCut_frame]
    exact hidle (by simp [hop])
  | index hop hfits => exact .none (by simp [hop]) (by simp [hop]) (hidle (by simp [hop]))
  | lzw d bs u hop hemits =>
    refine .none (by simp [hop]) (by simp [hop]) ?_
    rw [hemits.frame]
    exact hidle (by simp [hop])

theorem SameButResults.config {s t : State} (h : SameButResults s t) :
    t.width = s.width ∧ t.height = s.height ∧ t.delay = s.delay ∧ t.frameCount = s.frameCount := by
  rw [h]
  exact ⟨rfl, rfl, rfl, rfl⟩

/-! ### The container through a step -/

theorem ContainerInv.of_idle {s : State} (hp : s.phase = .idle) : ContainerInv s where
  opened h := nomatch hp.symm.trans h
  done h := nomatch hp.symm.trans h

theorem ContainerInv.of_error {s : State} (hp : s.phase = .error) : ContainerInv s where
  opened h := nomatch hp.symm.trans h
  done h := nomatch hp.symm.trans h

theorem ContainerInv.of_opened {s : State} (hp : s.phase = .opened)
    (h : IsContainerPrefix s.width s.height s.delay s.framesDone.toNat s.output) : ContainerInv s where
  opened _ := h
  done hd := nomatch hp.symm.trans hd

theorem ContainerInv.of_done {s : State} (hp : s.phase = .done)
    (h : IsContainer s.width s.height s.delay s.framesDone.toNat s.output) : ContainerInv s where
  opened ho := nomatch hp.symm.trans ho
  done _ := h

/-- A command that raises no error keeps the container. -/
theorem ContainerInv.of_conversion {s t : State} (hinv : CoreInv s) (hb : s.busy = true) (h : ContainerInv s)
    (hres : SameButResults s t) (hconv : Conversion s t) : ContainerInv t := by
  obtain ⟨hwidth, hheight, hdelay, -⟩ := hres.config
  cases hconv with
  | begun hop hp hzero houtput =>
    refine .of_opened hp ?_
    rw [hzero, houtput, hwidth, hheight]
    exact isContainerPrefix_header _ _ _
  | counted hop hp hdone houtput =>
    have hprefix := h.opened ((hinv.running hb).trans (if_pos hop))
    have hgroup := hprefix.append (isFrameGroup_frameGroup s.width s.height s.delay s.params.sampleBudget
      (Reference.framePixels s))
    by_cases hlast : LastFrame s
    · refine .of_done (hp.trans (if_pos hlast)) ?_
      rw [hdone, houtput, hwidth, hheight, hdelay, Reference.frameBytes, if_pos hlast, ← List.append_assoc]
      exact ⟨_, hgroup, rfl⟩
    · refine .of_opened (hp.trans (if_neg hlast)) ?_
      rw [hdone, houtput, hwidth, hheight, hdelay, Reference.frameBytes, if_neg hlast, List.append_nil]
      exact hgroup
  | none hbegin hframe hp => exact .of_idle hp

theorem ContainerInv.complete {s : State} (hinv : CoreInv s) (hb : s.busy = true) (h : ContainerInv s) :
    ContainerInv (complete s) := by
  rcases complete_cases_of_coreInv hinv hb with ⟨t, ht, hres, hc⟩ | ⟨k, -, -, hc⟩ <;> rw [hc]
  · have hcontainer := h.of_conversion hinv hb hres (ht.conversion hinv hb)
    exact ⟨hcontainer.opened, hcontainer.done⟩
  · exact .of_error rfl

theorem ContainerInv.writeField {s : State} (h : ContainerInv s) (c : Csr) (v : Word) :
    ContainerInv (writeField c v s) := by
  rcases writeField_cases c v s with ⟨fw, fh, e⟩ | ⟨hp, w, ht, d, n, e⟩ | ⟨-, n, -, e⟩ | ⟨-, n, -, e⟩ <;> rw [e]
  · exact ⟨h.opened, h.done⟩
  · exact .of_idle hp
  · exact ⟨h.opened, h.done⟩
  · exact ⟨h.opened, h.done⟩

/-- A host write does not reach OUT (rule R67). -/
theorem ContainerInv.storeBytes {s : State} (h : ContainerInv s) (sp : Space) (bs : List Byte) (a : Nat) :
    ContainerInv (storeBytes sp a bs s) := by
  rw [sameButStores_storeBytes sp bs a s]
  exact ⟨h.opened, h.done⟩

end Sys2Proof.Machine
end

section
/-! The obligations on the container, on the phase and on the progress of a conversion. -/

namespace Sys2Proof.Machine

/-- Settles O16: every change a step can be keeps the grammar of OUT; only BEGIN and FRAME extend it. -/
theorem stepKeepsContainer : Obligations.StepKeepsContainer := by
  unfold Obligations.StepKeepsContainer
  intro s t hinv hcontainer hstep
  obtain ⟨queue, hchange⟩ := change_of_step hstep
  have hqueue : ContainerInv { s with queue := queue } := ⟨hcontainer.opened, hcontainer.done⟩
  cases hchange with
  | same | rejected | read | recorded | issued => exact ⟨hcontainer.opened, hcontainer.done⟩
  | field c v hb => exact hqueue.writeField c v
  | stored sp a bs hb => exact hqueue.storeBytes sp bs a
  | cancelled hwritten hp => exact .of_error rfl
  | cleared hwritten => exact .of_idle rfl
  | reset rest harrives => exact .of_idle rfl
  | completed op hruns hlegal =>
    have hissued : ContainerInv (issue op { s with queue := queue }) := ⟨hcontainer.opened, hcontainer.done⟩
    exact hissued.complete (hinv.issue_of_runs queue hruns hlegal) rfl

/-- Settles O37: of all changes only CANCEL, CLEAR, reset and completions change the phase. -/
theorem phaseTransitions : Obligations.PhaseTransitions := by
  unfold Obligations.PhaseTransitions
  intro s t hinv hstep hne
  have hinv' := stepKeepsCoreInvariant s t hinv hstep
  obtain ⟨queue, hchange⟩ := change_of_step hstep
  cases hchange with
  | same | rejected | read | recorded | issued => exact absurd rfl hne
  | field c v hb => exact absurd (by rw [writeField_frame]) hne
  | stored sp a bs hb => exact absurd (by rw [sameButStores_storeBytes sp bs a]) hne
  | cancelled hwritten hp => exact .inr (.inr (.inr (.inl ⟨hp, rfl, .inr hwritten⟩)))
  | cleared hwritten => exact .inr (.inr (.inr (.inr ⟨rfl, .inl hwritten⟩)))
  | reset rest harrives => exact .inr (.inr (.inr (.inr ⟨rfl, .inr ⟨rest, harrives⟩⟩)))
  | completed op hruns hlegal =>
    have hissued := hinv.issue_of_runs queue hruns hlegal
    have hphase : s.phase = if op = .frame then .opened else .idle := hissued.running rfl
    rcases complete_cases_of_coreInv hissued rfl with ⟨u, hu, -, hc⟩ | ⟨k, -, hmcut, hc⟩ <;> rw [hc] at hne hinv' ⊢
    · have hframesDone : u.phase = .done → u.framesDone = u.frameCount := fun hp => (hinv'.done hp).1
      cases hu.conversion hissued rfl with
      | begun hop hp =>
        obtain rfl : op = .begin := hop
        exact .inl ⟨hphase, hp, hruns⟩
      | counted hop hp =>
        obtain rfl : op = .frame := hop
        by_cases hlast : LastFrame (issue .frame { s with queue := queue })
        · rw [if_pos hlast] at hp
          exact .inr (.inr (.inl ⟨hphase, hp, hruns, hframesDone hp⟩))
        · rw [if_neg hlast] at hp
          exact absurd (hp.trans hphase.symm) hne
      | none hbegin hframe hp => exact absurd (hp.trans (hphase.trans (if_neg hframe)).symm) hne
    · cases op with
      | begin => exact .inr (.inl ⟨hphase, rfl, .inl hruns⟩)
      | frame => exact .inr (.inr (.inr (.inl ⟨hphase, rfl, .inl hruns⟩)))
      | sample => exact .inr (.inl ⟨hphase, rfl, .inr (.inl hruns)⟩)
      | mcut => exact absurd rfl hmcut
      | index => exact .inr (.inl ⟨hphase, rfl, .inr (.inr (.inl hruns))⟩)
      | lzw d => exact .inr (.inl ⟨hphase, rfl, .inr (.inr (.inr ⟨d, hruns⟩))⟩)

/-- A step from phase OPEN that does not go back to IDLE keeps FRAME_COUNT, and FRAMES_DONE but for a frame that is
counted. -/
theorem progress_of_step {s t : State} (hinv : CoreInv s) (hstep : step s = .next t) (hp : s.phase = .opened)
    (hidle : t.phase ≠ .idle) :
    t.frameCount = s.frameCount ∧
      (t.framesDone = s.framesDone ∨ (t.framesDone.toNat = s.framesDone.toNat + 1 ∧ t.phase ≠ .error)) := by
  obtain ⟨queue, hchange⟩ := change_of_step hstep
  cases hchange with
  | same | rejected | read | recorded | issued | cancelled => exact ⟨rfl, .inl rfl⟩
  | field c v hb =>
    rcases writeField_cases c v { s with queue := queue } with
      ⟨fw, fh, e⟩ | ⟨hconfig, w, ht, d, n, e⟩ | ⟨-, n, -, e⟩ | ⟨-, n, -, e⟩ <;> rw [e]
    · exact ⟨rfl, .inl rfl⟩
    · exact nomatch hp.symm.trans hconfig
    · exact ⟨rfl, .inl rfl⟩
    · exact ⟨rfl, .inl rfl⟩
  | stored sp a bs hb =>
    rw [sameButStores_storeBytes sp bs a]
    exact ⟨rfl, .inl rfl⟩
  | cleared hwritten => exact absurd rfl hidle
  | reset rest harrives => exact absurd rfl hidle
  | completed op hruns hlegal =>
    have hissued := hinv.issue_of_runs queue hruns hlegal
    have hphase : s.phase = if op = .frame then .opened else .idle := hissued.running rfl
    have hop : op = .frame := by
      by_contra hother
      rw [if_neg hother, hp] at hphase
      cases hphase
    subst op
    rcases complete_cases_of_coreInv hissued rfl with ⟨u, hu, hres, hc⟩ | ⟨k, -, -, hc⟩ <;> rw [hc]
    · obtain ⟨-, -, -, hcount⟩ := hres.config
      cases hu.conversion hissued rfl with
      | begun hop => cases hop
      | counted hop hp' hdone =>
        refine ⟨hcount, .inr ⟨hdone, fun herror => ?_⟩⟩
        have hu' : (if LastFrame (issue .frame { s with queue := queue }) then Phase.done else .opened) = .error :=
          hp'.symm.trans herror
        split at hu' <;> cases hu'
      | none hbegin hframe => exact absurd rfl hframe
    · exact ⟨rfl, .inl rfl⟩

/-- Settles O38: a frame is counted one at a time, and the invariant ties the count to phase DONE. -/
theorem progressNeverFalls : Obligations.ProgressNeverFalls := by
  unfold Obligations.ProgressNeverFalls
  intro s t hinv hstep hp hidle
  have hinv' := stepKeepsCoreInvariant s t hinv hstep
  obtain ⟨hcount, hdone⟩ := progress_of_step hinv hstep hp hidle
  have hlt := hinv.framesDone_lt hp
  have hbounds : s.framesDone.toNat ≤ t.framesDone.toNat ∧ t.framesDone.toNat ≤ s.framesDone.toNat + 1 := by
    rcases hdone with hsame | ⟨hnext, -⟩
    · rw [hsame]
      omega
    · omega
  refine ⟨hbounds.1, hbounds.2, hcount, fun hd => (hinv'.done hd).1, fun heq => ?_⟩
  cases hp' : t.phase with
  | idle => exact absurd hp' hidle
  | opened => exact absurd (congrArg BitVec.toNat heq) (hinv'.framesDone_lt hp').ne
  | done => rfl
  | error =>
    rcases hdone with hsame | ⟨-, hnoError⟩
    · rw [hsame, hcount] at heq
      exact absurd (congrArg BitVec.toNat heq) hlt.ne
    · exact absurd hp' hnoError

end Sys2Proof.Machine
end
